-- ==== Sys2Proof/Word.lean ====
section
/-! DEFINITION. The data sizes of the E0C33000 (00_scope.md R9) and its register numbers (30_encoding.md R112). -/

namespace Sys2Proof

/-- A byte, "Byte = B = 8 bits" (00_scope.md R9). -/
abbrev Byte := BitVec 8

/-- A half word, "half word = H = 16 bits" (00_scope.md R9). -/
abbrev Half := BitVec 16

/-- A word, "word = W = 32 bits" (00_scope.md R9). -/
abbrev Word := BitVec 32

/-- The number of a general-purpose register R0 to R15 (10_state.md R21, 30_encoding.md R112). -/
abbrev Reg := Fin 16

end Sys2Proof
end

