-- ==== Sys2Proof/Syntax.lean ====
section
/-! DEFINITION. The instructions of the E0C33000: one constructor per row of opcode_table.json, in its order. Operands are in assembler order, with the register and immediate fields at their own types (30_encoding.md R112 to R114), so that an operand out of range cannot be written down. -/

namespace Sys2Proof

/-- The special registers that have a number (10_state.md R45): PSR 0, SP 1, ALR 2, AHR 3. -/
inductive SpecialReg where
  | psr
  | sp
  | alr
  | ahr
deriving DecidableEq, Repr

/-- The 120 instructions of opcode_table.json. A suffix `Delayed` is the `.d` form. -/
inductive Instr where
  -- Data transfer (40_data_transfer.md)
  /-- `ld.b %rd,%rs` (R160). -/
  | ldBReg (rd rs : Reg)
  /-- `ld.b %rd,[%rb]` (R161). -/
  | ldBInd (rd rb : Reg)
  /-- `ld.b %rd,[%rb]+` (R162). -/
  | ldBPost (rd rb : Reg)
  /-- `ld.b %rd,[%sp+imm6]` (R163). -/
  | ldBSp (rd : Reg) (imm6 : BitVec 6)
  /-- `ld.b [%rb],%rs` (R164). -/
  | stBInd (rb rs : Reg)
  /-- `ld.b [%rb]+,%rs` (R165). -/
  | stBPost (rb rs : Reg)
  /-- `ld.b [%sp+imm6],%rs` (R166). -/
  | stBSp (imm6 : BitVec 6) (rs : Reg)
  /-- `ld.ub %rd,%rs` (R167). -/
  | ldUbReg (rd rs : Reg)
  /-- `ld.ub %rd,[%rb]` (R168). -/
  | ldUbInd (rd rb : Reg)
  /-- `ld.ub %rd,[%rb]+` (R169). -/
  | ldUbPost (rd rb : Reg)
  /-- `ld.ub %rd,[%sp+imm6]` (R170). -/
  | ldUbSp (rd : Reg) (imm6 : BitVec 6)
  /-- `ld.h %rd,%rs` (R171). -/
  | ldHReg (rd rs : Reg)
  /-- `ld.h %rd,[%rb]` (R172). -/
  | ldHInd (rd rb : Reg)
  /-- `ld.h %rd,[%rb]+` (R173). -/
  | ldHPost (rd rb : Reg)
  /-- `ld.h %rd,[%sp+imm6]` (R174). -/
  | ldHSp (rd : Reg) (imm6 : BitVec 6)
  /-- `ld.h [%rb],%rs` (R175). -/
  | stHInd (rb rs : Reg)
  /-- `ld.h [%rb]+,%rs` (R176). -/
  | stHPost (rb rs : Reg)
  /-- `ld.h [%sp+imm6],%rs` (R177). -/
  | stHSp (imm6 : BitVec 6) (rs : Reg)
  /-- `ld.uh %rd,%rs` (R178). -/
  | ldUhReg (rd rs : Reg)
  /-- `ld.uh %rd,[%rb]` (R179). -/
  | ldUhInd (rd rb : Reg)
  /-- `ld.uh %rd,[%rb]+` (R180). -/
  | ldUhPost (rd rb : Reg)
  /-- `ld.uh %rd,[%sp+imm6]` (R181). -/
  | ldUhSp (rd : Reg) (imm6 : BitVec 6)
  /-- `ld.w %rd,%rs` (R182). -/
  | ldWReg (rd rs : Reg)
  /-- `ld.w %sd,%rs` (R183). -/
  | ldWToSpecial (sd : SpecialReg) (rs : Reg)
  /-- `ld.w %rd,%ss` (R184). -/
  | ldWFromSpecial (rd : Reg) (ss : SpecialReg)
  /-- `ld.w %rd,sign6` (R185). -/
  | ldWImm (rd : Reg) (sign6 : BitVec 6)
  /-- `ld.w %rd,[%rb]` (R186). -/
  | ldWInd (rd rb : Reg)
  /-- `ld.w %rd,[%rb]+` (R187). -/
  | ldWPost (rd rb : Reg)
  /-- `ld.w %rd,[%sp+imm6]` (R188). -/
  | ldWSp (rd : Reg) (imm6 : BitVec 6)
  /-- `ld.w [%rb],%rs` (R189). -/
  | stWInd (rb rs : Reg)
  /-- `ld.w [%rb]+,%rs` (R190). -/
  | stWPost (rb rs : Reg)
  /-- `ld.w [%sp+imm6],%rs` (R191). -/
  | stWSp (imm6 : BitVec 6) (rs : Reg)
  -- Logic (41_logic.md)
  /-- `and %rd,%rs` (R203). -/
  | andReg (rd rs : Reg)
  /-- `and %rd,sign6` (R204). -/
  | andImm (rd : Reg) (sign6 : BitVec 6)
  /-- `or %rd,%rs` (R205). -/
  | orReg (rd rs : Reg)
  /-- `or %rd,sign6` (R206). -/
  | orImm (rd : Reg) (sign6 : BitVec 6)
  /-- `xor %rd,%rs` (R207). -/
  | xorReg (rd rs : Reg)
  /-- `xor %rd,sign6` (R208). -/
  | xorImm (rd : Reg) (sign6 : BitVec 6)
  /-- `not %rd,%rs` (R209). -/
  | notReg (rd rs : Reg)
  /-- `not %rd,sign6` (R210). -/
  | notImm (rd : Reg) (sign6 : BitVec 6)
  -- Arithmetic (42_arithmetic.md)
  /-- `add %rd,%rs` (R223). -/
  | addReg (rd rs : Reg)
  /-- `add %rd,imm6` (R224). -/
  | addImm (rd : Reg) (imm6 : BitVec 6)
  /-- `add %sp,imm10` (R225). -/
  | addSp (imm10 : BitVec 10)
  /-- `adc %rd,%rs` (R226). -/
  | adc (rd rs : Reg)
  /-- `sub %rd,%rs` (R227). -/
  | subReg (rd rs : Reg)
  /-- `sub %rd,imm6` (R228). -/
  | subImm (rd : Reg) (imm6 : BitVec 6)
  /-- `sub %sp,imm10` (R229). -/
  | subSp (imm10 : BitVec 10)
  /-- `sbc %rd,%rs` (R230). -/
  | sbc (rd rs : Reg)
  /-- `cmp %rd,%rs` (R231). -/
  | cmpReg (rd rs : Reg)
  /-- `cmp %rd,sign6` (R232). -/
  | cmpImm (rd : Reg) (sign6 : BitVec 6)
  -- Multiplication, step division, multiply-accumulate (43_multiply_divide_mac.md)
  /-- `mlt.h %rd,%rs` (R253). -/
  | mltH (rd rs : Reg)
  /-- `mltu.h %rd,%rs` (R254). -/
  | mltuH (rd rs : Reg)
  /-- `mlt.w %rd,%rs` (R255). -/
  | mltW (rd rs : Reg)
  /-- `mltu.w %rd,%rs` (R256). -/
  | mltuW (rd rs : Reg)
  /-- `div0s %rs` (R258). -/
  | div0s (rs : Reg)
  /-- `div0u %rs` (R259). -/
  | div0u (rs : Reg)
  /-- `div1 %rs` (R260). -/
  | div1 (rs : Reg)
  /-- `div2s %rs` (R261). -/
  | div2s (rs : Reg)
  /-- `div3s`; bits 7:4 are ignored (30_encoding.md R109) and kept as `ignored` (R262). -/
  | div3s (ignored : BitVec 4)
  /-- `mac %rs` (R270). -/
  | mac (rs : Reg)
  -- Shift and rotate (44_shift_rotate.md)
  /-- `srl %rd,imm4` (R284). -/
  | srlImm (rd : Reg) (imm4 : BitVec 4)
  /-- `srl %rd,%rs` (R285). -/
  | srlReg (rd rs : Reg)
  /-- `sll %rd,imm4` (R286). -/
  | sllImm (rd : Reg) (imm4 : BitVec 4)
  /-- `sll %rd,%rs` (R287). -/
  | sllReg (rd rs : Reg)
  /-- `sra %rd,imm4` (R288). -/
  | sraImm (rd : Reg) (imm4 : BitVec 4)
  /-- `sra %rd,%rs` (R289). -/
  | sraReg (rd rs : Reg)
  /-- `sla %rd,imm4` (R290). -/
  | slaImm (rd : Reg) (imm4 : BitVec 4)
  /-- `sla %rd,%rs` (R291). -/
  | slaReg (rd rs : Reg)
  /-- `rr %rd,imm4` (R292). -/
  | rrImm (rd : Reg) (imm4 : BitVec 4)
  /-- `rr %rd,%rs` (R293). -/
  | rrReg (rd rs : Reg)
  /-- `rl %rd,imm4` (R294). -/
  | rlImm (rd : Reg) (imm4 : BitVec 4)
  /-- `rl %rd,%rs` (R295). -/
  | rlReg (rd rs : Reg)
  -- Bit operations (45_bit_operation.md)
  /-- `btst [%rb],imm3` (R305). -/
  | btst (rb : Reg) (imm3 : BitVec 3)
  /-- `bclr [%rb],imm3` (R306). -/
  | bclr (rb : Reg) (imm3 : BitVec 3)
  /-- `bset [%rb],imm3` (R307). -/
  | bset (rb : Reg) (imm3 : BitVec 3)
  /-- `bnot [%rb],imm3` (R308). -/
  | bnot (rb : Reg) (imm3 : BitVec 3)
  -- Push and pop (46_push_pop.md)
  /-- `pushn %rs` (R312). -/
  | pushn (rs : Reg)
  /-- `popn %rd` (R313). -/
  | popn (rd : Reg)
  -- Branches (47_branch.md)
  /-- `jrgt sign8` (R330). -/
  | jrgt (sign8 : BitVec 8)
  /-- `jrgt.d sign8` (R330). -/
  | jrgtDelayed (sign8 : BitVec 8)
  /-- `jrge sign8` (R331). -/
  | jrge (sign8 : BitVec 8)
  /-- `jrge.d sign8` (R331). -/
  | jrgeDelayed (sign8 : BitVec 8)
  /-- `jrlt sign8` (R332). -/
  | jrlt (sign8 : BitVec 8)
  /-- `jrlt.d sign8` (R332). -/
  | jrltDelayed (sign8 : BitVec 8)
  /-- `jrle sign8` (R333). -/
  | jrle (sign8 : BitVec 8)
  /-- `jrle.d sign8` (R333). -/
  | jrleDelayed (sign8 : BitVec 8)
  /-- `jrugt sign8` (R334). -/
  | jrugt (sign8 : BitVec 8)
  /-- `jrugt.d sign8` (R334). -/
  | jrugtDelayed (sign8 : BitVec 8)
  /-- `jruge sign8` (R335). -/
  | jruge (sign8 : BitVec 8)
  /-- `jruge.d sign8` (R335). -/
  | jrugeDelayed (sign8 : BitVec 8)
  /-- `jrult sign8` (R336). -/
  | jrult (sign8 : BitVec 8)
  /-- `jrult.d sign8` (R336). -/
  | jrultDelayed (sign8 : BitVec 8)
  /-- `jrule sign8` (R337). -/
  | jrule (sign8 : BitVec 8)
  /-- `jrule.d sign8` (R337). -/
  | jruleDelayed (sign8 : BitVec 8)
  /-- `jreq sign8` (R338). -/
  | jreq (sign8 : BitVec 8)
  /-- `jreq.d sign8` (R338). -/
  | jreqDelayed (sign8 : BitVec 8)
  /-- `jrne sign8` (R339). -/
  | jrne (sign8 : BitVec 8)
  /-- `jrne.d sign8` (R339). -/
  | jrneDelayed (sign8 : BitVec 8)
  /-- `call sign8` (R341). -/
  | call (sign8 : BitVec 8)
  /-- `call.d sign8` (R341). -/
  | callDelayed (sign8 : BitVec 8)
  /-- `jp sign8` (R340). -/
  | jp (sign8 : BitVec 8)
  /-- `jp.d sign8` (R340). -/
  | jpDelayed (sign8 : BitVec 8)
  /-- `call %rb` (R345). -/
  | callReg (rb : Reg)
  /-- `call.d %rb` (R345). -/
  | callRegDelayed (rb : Reg)
  /-- `ret` (R350). -/
  | ret
  /-- `ret.d` (R350). -/
  | retDelayed
  /-- `jp %rb` (R346). -/
  | jpReg (rb : Reg)
  /-- `jp.d %rb` (R346). -/
  | jpRegDelayed (rb : Reg)
  /-- `brk` (R354). -/
  | brk
  /-- `retd` (R352). -/
  | retd
  /-- `int imm2` (R353). -/
  | int (imm2 : BitVec 2)
  /-- `reti` (R351). -/
  | reti
  -- System control, ext, scan, swap, mirror (48_system_ext_misc.md)
  /-- `nop` (R371). -/
  | nop
  /-- `slp` (R373). -/
  | slp
  /-- `halt` (R372). -/
  | halt
  /-- `ext imm13` (R375). -/
  | ext (imm13 : BitVec 13)
  /-- `scan0 %rd,%rs` (R381). -/
  | scan0 (rd rs : Reg)
  /-- `scan1 %rd,%rs` (R382). -/
  | scan1 (rd rs : Reg)
  /-- `swap %rd,%rs` (R390). -/
  | swap (rd rs : Reg)
  /-- `mirror %rd,%rs` (R391). -/
  | mirror (rd rs : Reg)
deriving DecidableEq, Repr

end Sys2Proof
end

