-- ==== Sys2Proof/Decode.lean ====
section
/-! DEFINITION. The decoder, total on every 16-bit code and rejecting by name, and the encoder after it (30_encoding.md R100 to R134). -/

namespace Sys2Proof

/-- Why a code is no instruction of the E0C33000. -/
inductive DecodeError where
  /-- A row marked reserved in classes 0, 1, 4 or 5 (30_encoding.md R130). -/
  | reservedOperation
  /-- Class 7, "reserved for expansion in future" (30_encoding.md R130). -/
  | reservedClass
  /-- A 1 in a bit that the row prints as 0 (30_encoding.md R131). -/
  | fixedBitSet
  /-- A special-register number 4 to 15 (30_encoding.md R133). -/
  | reservedSpecialRegister
  /-- Fewer bytes than one half word (30_encoding.md R100). -/
  | truncated
deriving DecidableEq, Repr

/-- The register number in the 4 bits from `lo` upward (30_encoding.md R112). -/
def regField (w : BitVec 16) (lo : Nat) : Reg :=
  (w.extractLsb' lo 4).toFin

/-- The 4-bit field of a register number (30_encoding.md R112). -/
def regBits (r : Reg) : BitVec 4 :=
  BitVec.ofFin r

/-- The special register with a number, of a 4-bit field (30_encoding.md R133). -/
def specialRegOf (field : BitVec 4) : Except DecodeError SpecialReg :=
  match field.toNat with
  | 0 => .ok .psr
  | 1 => .ok .sp
  | 2 => .ok .alr
  | 3 => .ok .ahr
  | _ => .error .reservedSpecialRegister

/-- The number of a special register (10_state.md R45). -/
def specialRegBits : SpecialReg → BitVec 2
  | .psr => 0#2
  | .sp => 1#2
  | .alr => 2#2
  | .ahr => 3#2

/-- The instruction `i`, where the bits the row prints as 0 are 0 (30_encoding.md R131). -/
def requireZero {n : Nat} (bits : BitVec n) (i : Instr) : Except DecodeError Instr :=
  if bits = 0#n then .ok i else .error .fixedBitSet

/-- Class 0, format 0a (30_encoding.md R103): `op1` is 0 to 3. -/
def decodeClass0a (w : BitVec 16) : Except DecodeError Instr :=
  let d := w.getLsbD 8
  let r := regField w 0
  let low6 := w.extractLsb' 0 6
  let bits54 := w.extractLsb' 4 2
  match (w.extractLsb' 9 2).toNat, (w.extractLsb' 6 2).toNat with
  | 0, 0 => if d then .error .fixedBitSet else requireZero low6 .nop
  | 0, 1 => if d then .error .fixedBitSet else requireZero low6 .slp
  | 0, 2 => if d then .error .fixedBitSet else requireZero low6 .halt
  | 1, 0 => if d then .error .fixedBitSet else requireZero bits54 (.pushn r)
  | 1, 1 => if d then .error .fixedBitSet else requireZero bits54 (.popn r)
  | 2, 0 => if d then .error .fixedBitSet else requireZero low6 .brk
  | 2, 1 => if d then .error .fixedBitSet else requireZero low6 .retd
  | 2, 2 => if d then .error .fixedBitSet else requireZero (w.extractLsb' 2 4) (.int (w.extractLsb' 0 2))
  | 2, 3 => if d then .error .fixedBitSet else requireZero low6 .reti
  | 3, 0 => requireZero bits54 (if d then .callRegDelayed r else .callReg r)
  | 3, 1 => requireZero low6 (if d then .retDelayed else .ret)
  | 3, 2 => requireZero bits54 (if d then .jpRegDelayed r else .jpReg r)
  | _, _ => .error .reservedOperation

/-- Class 0 (30_encoding.md R103, R104): op1 0 to 3 is format 0a, 4 to 15 are the PC-relative branches. -/
def decodeClass0 (w : BitVec 16) : Except DecodeError Instr :=
  let d := w.getLsbD 8
  let sign8 := w.extractLsb' 0 8
  match (w.extractLsb' 9 4).toNat with
  | 4 => .ok (if d then .jrgtDelayed sign8 else .jrgt sign8)
  | 5 => .ok (if d then .jrgeDelayed sign8 else .jrge sign8)
  | 6 => .ok (if d then .jrltDelayed sign8 else .jrlt sign8)
  | 7 => .ok (if d then .jrleDelayed sign8 else .jrle sign8)
  | 8 => .ok (if d then .jrugtDelayed sign8 else .jrugt sign8)
  | 9 => .ok (if d then .jrugeDelayed sign8 else .jruge sign8)
  | 10 => .ok (if d then .jrultDelayed sign8 else .jrult sign8)
  | 11 => .ok (if d then .jruleDelayed sign8 else .jrule sign8)
  | 12 => .ok (if d then .jreqDelayed sign8 else .jreq sign8)
  | 13 => .ok (if d then .jrneDelayed sign8 else .jrne sign8)
  | 14 => .ok (if d then .callDelayed sign8 else .call sign8)
  | 15 => .ok (if d then .jpDelayed sign8 else .jp sign8)
  | _ => decodeClass0a w

/-- Class 1 (30_encoding.md R105). -/
def decodeClass1 (w : BitVec 16) : Except DecodeError Instr :=
  let highReg := regField w 4
  let lowReg := regField w 0
  match (w.extractLsb' 10 3).toNat, (w.extractLsb' 8 2).toNat with
  | 0, 0 => .ok (.ldBInd lowReg highReg)
  | 0, 1 => .ok (.ldBPost lowReg highReg)
  | 0, 2 => .ok (.addReg lowReg highReg)
  | 1, 0 => .ok (.ldUbInd lowReg highReg)
  | 1, 1 => .ok (.ldUbPost lowReg highReg)
  | 1, 2 => .ok (.subReg lowReg highReg)
  | 2, 0 => .ok (.ldHInd lowReg highReg)
  | 2, 1 => .ok (.ldHPost lowReg highReg)
  | 2, 2 => .ok (.cmpReg lowReg highReg)
  | 3, 0 => .ok (.ldUhInd lowReg highReg)
  | 3, 1 => .ok (.ldUhPost lowReg highReg)
  | 3, 2 => .ok (.ldWReg lowReg highReg)
  | 4, 0 => .ok (.ldWInd lowReg highReg)
  | 4, 1 => .ok (.ldWPost lowReg highReg)
  | 4, 2 => .ok (.andReg lowReg highReg)
  | 5, 0 => .ok (.stBInd highReg lowReg)
  | 5, 1 => .ok (.stBPost highReg lowReg)
  | 5, 2 => .ok (.orReg lowReg highReg)
  | 6, 0 => .ok (.stHInd highReg lowReg)
  | 6, 1 => .ok (.stHPost highReg lowReg)
  | 6, 2 => .ok (.xorReg lowReg highReg)
  | 7, 0 => .ok (.stWInd highReg lowReg)
  | 7, 1 => .ok (.stWPost highReg lowReg)
  | 7, 2 => .ok (.notReg lowReg highReg)
  | _, _ => .error .reservedOperation

/-- Class 2 (30_encoding.md R106). -/
def decodeClass2 (w : BitVec 16) : Except DecodeError Instr :=
  let field6 := w.extractLsb' 4 6
  let lowReg := regField w 0
  match (w.extractLsb' 10 3).toNat with
  | 0 => .ok (.ldBSp lowReg field6)
  | 1 => .ok (.ldUbSp lowReg field6)
  | 2 => .ok (.ldHSp lowReg field6)
  | 3 => .ok (.ldUhSp lowReg field6)
  | 4 => .ok (.ldWSp lowReg field6)
  | 5 => .ok (.stBSp field6 lowReg)
  | 6 => .ok (.stHSp field6 lowReg)
  | _ => .ok (.stWSp field6 lowReg)

/-- Class 3 (30_encoding.md R107). -/
def decodeClass3 (w : BitVec 16) : Except DecodeError Instr :=
  let field6 := w.extractLsb' 4 6
  let lowReg := regField w 0
  match (w.extractLsb' 10 3).toNat with
  | 0 => .ok (.addImm lowReg field6)
  | 1 => .ok (.subImm lowReg field6)
  | 2 => .ok (.cmpImm lowReg field6)
  | 3 => .ok (.ldWImm lowReg field6)
  | 4 => .ok (.andImm lowReg field6)
  | 5 => .ok (.orImm lowReg field6)
  | 6 => .ok (.xorImm lowReg field6)
  | _ => .ok (.notImm lowReg field6)

/-- Class 4 (30_encoding.md R108, R109). -/
def decodeClass4 (w : BitVec 16) : Except DecodeError Instr :=
  let highReg := regField w 4
  let lowReg := regField w 0
  let imm4 := w.extractLsb' 4 4
  let low4 := w.extractLsb' 0 4
  match (w.extractLsb' 10 3).toNat, (w.extractLsb' 8 2).toNat with
  | 0, _ => .ok (.addSp (w.extractLsb' 0 10))
  | 1, _ => .ok (.subSp (w.extractLsb' 0 10))
  | 2, 0 => .ok (.srlImm lowReg imm4)
  | 2, 1 => .ok (.srlReg lowReg highReg)
  | 2, 2 => .ok (.scan0 lowReg highReg)
  | 2, 3 => requireZero low4 (.div0s highReg)
  | 3, 0 => .ok (.sllImm lowReg imm4)
  | 3, 1 => .ok (.sllReg lowReg highReg)
  | 3, 2 => .ok (.scan1 lowReg highReg)
  | 3, 3 => requireZero low4 (.div0u highReg)
  | 4, 0 => .ok (.sraImm lowReg imm4)
  | 4, 1 => .ok (.sraReg lowReg highReg)
  | 4, 2 => .ok (.swap lowReg highReg)
  | 4, 3 => requireZero low4 (.div1 highReg)
  | 5, 0 => .ok (.slaImm lowReg imm4)
  | 5, 1 => .ok (.slaReg lowReg highReg)
  | 5, 2 => .ok (.mirror lowReg highReg)
  | 5, 3 => requireZero low4 (.div2s highReg)
  | 6, 0 => .ok (.rrImm lowReg imm4)
  | 6, 1 => .ok (.rrReg lowReg highReg)
  | 6, 3 => requireZero low4 (.div3s imm4)
  | 7, 0 => .ok (.rlImm lowReg imm4)
  | 7, 1 => .ok (.rlReg lowReg highReg)
  | _, _ => .error .reservedOperation

/-- Class 5 (30_encoding.md R110, R133). -/
def decodeClass5 (w : BitVec 16) : Except DecodeError Instr :=
  let highReg := regField w 4
  let lowReg := regField w 0
  let imm3 := w.extractLsb' 0 3
  let bit3 := w.extractLsb' 3 1
  let low4 := w.extractLsb' 0 4
  match (w.extractLsb' 10 3).toNat, (w.extractLsb' 8 2).toNat with
  | 0, 0 => (specialRegOf low4).map fun sd => .ldWToSpecial sd highReg
  | 0, 1 => .ok (.ldBReg lowReg highReg)
  | 0, 2 => .ok (.mltH lowReg highReg)
  | 1, 0 => (specialRegOf (w.extractLsb' 4 4)).map fun ss => .ldWFromSpecial lowReg ss
  | 1, 1 => .ok (.ldUbReg lowReg highReg)
  | 1, 2 => .ok (.mltuH lowReg highReg)
  | 2, 0 => requireZero bit3 (.btst highReg imm3)
  | 2, 1 => .ok (.ldHReg lowReg highReg)
  | 2, 2 => .ok (.mltW lowReg highReg)
  | 3, 0 => requireZero bit3 (.bclr highReg imm3)
  | 3, 1 => .ok (.ldUhReg lowReg highReg)
  | 3, 2 => .ok (.mltuW lowReg highReg)
  | 4, 0 => requireZero bit3 (.bset highReg imm3)
  | 4, 2 => requireZero low4 (.mac highReg)
  | 5, 0 => requireZero bit3 (.bnot highReg imm3)
  | 6, 0 => .ok (.adc lowReg highReg)
  | 7, 0 => .ok (.sbc lowReg highReg)
  | _, _ => .error .reservedOperation

/-- The decoder (30_encoding.md R101, R102): the class is bits 15:13. -/
def decode (w : BitVec 16) : Except DecodeError Instr :=
  match (w.extractLsb' 13 3).toNat with
  | 0 => decodeClass0 w
  | 1 => decodeClass1 w
  | 2 => decodeClass2 w
  | 3 => decodeClass3 w
  | 4 => decodeClass4 w
  | 5 => decodeClass5 w
  | 6 => .ok (.ext (w.extractLsb' 0 13))
  | _ => .error .reservedClass

/-- The code in two bytes as memory holds it, the low byte first (20_memory.md R74). -/
def codeOfBytes (low high : Byte) : BitVec 16 :=
  high ++ low

/-- The decoder on bytes: one half word is read and the rest is handed back (20_memory.md R74). -/
def decodeBytes : List Byte → Except DecodeError (Instr × List Byte)
  | low :: high :: rest => (decode (codeOfBytes low high)).map fun i => (i, rest)
  | _ => .error .truncated

/-- The instruction the decoder reads from the first `nbits` bits of `w`, numbered as opcode_table.json
numbers them, laid out as memory holds them. -/
def decodeTableWord (nbits w : Nat) : Option Instr :=
  let bits := w % 2 ^ nbits
  match decodeBytes [BitVec.ofNat 8 bits, BitVec.ofNat 8 (bits / 256)] with
  | .ok (i, _) => some i
  | .error _ => none

/-- The code of an instruction, field by field as its format prints it (30_encoding.md R103 to R111). -/
def encode : Instr → BitVec 16
  | .ldBReg rd rs => 0b10100001#8 ++ regBits rs ++ regBits rd
  | .ldBInd rd rb => 0b00100000#8 ++ regBits rb ++ regBits rd
  | .ldBPost rd rb => 0b00100001#8 ++ regBits rb ++ regBits rd
  | .ldBSp rd imm6 => 0b010000#6 ++ imm6 ++ regBits rd
  | .stBInd rb rs => 0b00110100#8 ++ regBits rb ++ regBits rs
  | .stBPost rb rs => 0b00110101#8 ++ regBits rb ++ regBits rs
  | .stBSp imm6 rs => 0b010101#6 ++ imm6 ++ regBits rs
  | .ldUbReg rd rs => 0b10100101#8 ++ regBits rs ++ regBits rd
  | .ldUbInd rd rb => 0b00100100#8 ++ regBits rb ++ regBits rd
  | .ldUbPost rd rb => 0b00100101#8 ++ regBits rb ++ regBits rd
  | .ldUbSp rd imm6 => 0b010001#6 ++ imm6 ++ regBits rd
  | .ldHReg rd rs => 0b10101001#8 ++ regBits rs ++ regBits rd
  | .ldHInd rd rb => 0b00101000#8 ++ regBits rb ++ regBits rd
  | .ldHPost rd rb => 0b00101001#8 ++ regBits rb ++ regBits rd
  | .ldHSp rd imm6 => 0b010010#6 ++ imm6 ++ regBits rd
  | .stHInd rb rs => 0b00111000#8 ++ regBits rb ++ regBits rs
  | .stHPost rb rs => 0b00111001#8 ++ regBits rb ++ regBits rs
  | .stHSp imm6 rs => 0b010110#6 ++ imm6 ++ regBits rs
  | .ldUhReg rd rs => 0b10101101#8 ++ regBits rs ++ regBits rd
  | .ldUhInd rd rb => 0b00101100#8 ++ regBits rb ++ regBits rd
  | .ldUhPost rd rb => 0b00101101#8 ++ regBits rb ++ regBits rd
  | .ldUhSp rd imm6 => 0b010011#6 ++ imm6 ++ regBits rd
  | .ldWReg rd rs => 0b00101110#8 ++ regBits rs ++ regBits rd
  | .ldWToSpecial sd rs => 0b10100000#8 ++ regBits rs ++ 0b00#2 ++ specialRegBits sd
  | .ldWFromSpecial rd ss => 0b1010010000#10 ++ specialRegBits ss ++ regBits rd
  | .ldWImm rd sign6 => 0b011011#6 ++ sign6 ++ regBits rd
  | .ldWInd rd rb => 0b00110000#8 ++ regBits rb ++ regBits rd
  | .ldWPost rd rb => 0b00110001#8 ++ regBits rb ++ regBits rd
  | .ldWSp rd imm6 => 0b010100#6 ++ imm6 ++ regBits rd
  | .stWInd rb rs => 0b00111100#8 ++ regBits rb ++ regBits rs
  | .stWPost rb rs => 0b00111101#8 ++ regBits rb ++ regBits rs
  | .stWSp imm6 rs => 0b010111#6 ++ imm6 ++ regBits rs
  | .andReg rd rs => 0b00110010#8 ++ regBits rs ++ regBits rd
  | .andImm rd sign6 => 0b011100#6 ++ sign6 ++ regBits rd
  | .orReg rd rs => 0b00110110#8 ++ regBits rs ++ regBits rd
  | .orImm rd sign6 => 0b011101#6 ++ sign6 ++ regBits rd
  | .xorReg rd rs => 0b00111010#8 ++ regBits rs ++ regBits rd
  | .xorImm rd sign6 => 0b011110#6 ++ sign6 ++ regBits rd
  | .notReg rd rs => 0b00111110#8 ++ regBits rs ++ regBits rd
  | .notImm rd sign6 => 0b011111#6 ++ sign6 ++ regBits rd
  | .addReg rd rs => 0b00100010#8 ++ regBits rs ++ regBits rd
  | .addImm rd imm6 => 0b011000#6 ++ imm6 ++ regBits rd
  | .addSp imm10 => 0b100000#6 ++ imm10
  | .adc rd rs => 0b10111000#8 ++ regBits rs ++ regBits rd
  | .subReg rd rs => 0b00100110#8 ++ regBits rs ++ regBits rd
  | .subImm rd imm6 => 0b011001#6 ++ imm6 ++ regBits rd
  | .subSp imm10 => 0b100001#6 ++ imm10
  | .sbc rd rs => 0b10111100#8 ++ regBits rs ++ regBits rd
  | .cmpReg rd rs => 0b00101010#8 ++ regBits rs ++ regBits rd
  | .cmpImm rd sign6 => 0b011010#6 ++ sign6 ++ regBits rd
  | .mltH rd rs => 0b10100010#8 ++ regBits rs ++ regBits rd
  | .mltuH rd rs => 0b10100110#8 ++ regBits rs ++ regBits rd
  | .mltW rd rs => 0b10101010#8 ++ regBits rs ++ regBits rd
  | .mltuW rd rs => 0b10101110#8 ++ regBits rs ++ regBits rd
  | .div0s rs => 0b10001011#8 ++ regBits rs ++ 0b0000#4
  | .div0u rs => 0b10001111#8 ++ regBits rs ++ 0b0000#4
  | .div1 rs => 0b10010011#8 ++ regBits rs ++ 0b0000#4
  | .div2s rs => 0b10010111#8 ++ regBits rs ++ 0b0000#4
  | .div3s ignored => 0b10011011#8 ++ ignored ++ 0b0000#4
  | .mac rs => 0b10110010#8 ++ regBits rs ++ 0b0000#4
  | .srlImm rd imm4 => 0b10001000#8 ++ imm4 ++ regBits rd
  | .srlReg rd rs => 0b10001001#8 ++ regBits rs ++ regBits rd
  | .sllImm rd imm4 => 0b10001100#8 ++ imm4 ++ regBits rd
  | .sllReg rd rs => 0b10001101#8 ++ regBits rs ++ regBits rd
  | .sraImm rd imm4 => 0b10010000#8 ++ imm4 ++ regBits rd
  | .sraReg rd rs => 0b10010001#8 ++ regBits rs ++ regBits rd
  | .slaImm rd imm4 => 0b10010100#8 ++ imm4 ++ regBits rd
  | .slaReg rd rs => 0b10010101#8 ++ regBits rs ++ regBits rd
  | .rrImm rd imm4 => 0b10011000#8 ++ imm4 ++ regBits rd
  | .rrReg rd rs => 0b10011001#8 ++ regBits rs ++ regBits rd
  | .rlImm rd imm4 => 0b10011100#8 ++ imm4 ++ regBits rd
  | .rlReg rd rs => 0b10011101#8 ++ regBits rs ++ regBits rd
  | .btst rb imm3 => 0b10101000#8 ++ regBits rb ++ 0b0#1 ++ imm3
  | .bclr rb imm3 => 0b10101100#8 ++ regBits rb ++ 0b0#1 ++ imm3
  | .bset rb imm3 => 0b10110000#8 ++ regBits rb ++ 0b0#1 ++ imm3
  | .bnot rb imm3 => 0b10110100#8 ++ regBits rb ++ 0b0#1 ++ imm3
  | .pushn rs => 0b000000100000#12 ++ regBits rs
  | .popn rd => 0b000000100100#12 ++ regBits rd
  | .jrgt sign8 => 0b00001000#8 ++ sign8
  | .jrgtDelayed sign8 => 0b00001001#8 ++ sign8
  | .jrge sign8 => 0b00001010#8 ++ sign8
  | .jrgeDelayed sign8 => 0b00001011#8 ++ sign8
  | .jrlt sign8 => 0b00001100#8 ++ sign8
  | .jrltDelayed sign8 => 0b00001101#8 ++ sign8
  | .jrle sign8 => 0b00001110#8 ++ sign8
  | .jrleDelayed sign8 => 0b00001111#8 ++ sign8
  | .jrugt sign8 => 0b00010000#8 ++ sign8
  | .jrugtDelayed sign8 => 0b00010001#8 ++ sign8
  | .jruge sign8 => 0b00010010#8 ++ sign8
  | .jrugeDelayed sign8 => 0b00010011#8 ++ sign8
  | .jrult sign8 => 0b00010100#8 ++ sign8
  | .jrultDelayed sign8 => 0b00010101#8 ++ sign8
  | .jrule sign8 => 0b00010110#8 ++ sign8
  | .jruleDelayed sign8 => 0b00010111#8 ++ sign8
  | .jreq sign8 => 0b00011000#8 ++ sign8
  | .jreqDelayed sign8 => 0b00011001#8 ++ sign8
  | .jrne sign8 => 0b00011010#8 ++ sign8
  | .jrneDelayed sign8 => 0b00011011#8 ++ sign8
  | .call sign8 => 0b00011100#8 ++ sign8
  | .callDelayed sign8 => 0b00011101#8 ++ sign8
  | .jp sign8 => 0b00011110#8 ++ sign8
  | .jpDelayed sign8 => 0b00011111#8 ++ sign8
  | .callReg rb => 0b000001100000#12 ++ regBits rb
  | .callRegDelayed rb => 0b000001110000#12 ++ regBits rb
  | .ret => 0b0000011001000000#16
  | .retDelayed => 0b0000011101000000#16
  | .jpReg rb => 0b000001101000#12 ++ regBits rb
  | .jpRegDelayed rb => 0b000001111000#12 ++ regBits rb
  | .brk => 0b0000010000000000#16
  | .retd => 0b0000010001000000#16
  | .int imm2 => 0b00000100100000#14 ++ imm2
  | .reti => 0b0000010011000000#16
  | .nop => 0b0000000000000000#16
  | .slp => 0b0000000001000000#16
  | .halt => 0b0000000010000000#16
  | .ext imm13 => 0b110#3 ++ imm13
  | .scan0 rd rs => 0b10001010#8 ++ regBits rs ++ regBits rd
  | .scan1 rd rs => 0b10001110#8 ++ regBits rs ++ regBits rd
  | .swap rd rs => 0b10010010#8 ++ regBits rs ++ regBits rd
  | .mirror rd rs => 0b10010110#8 ++ regBits rs ++ regBits rd

end Sys2Proof
end

