-- ==== Sys2Proof/Machine/DelaySlot.lean ====
section
/-! DEFINITION. Delayed branches and the instructions allowed after one (47_branch.md R325, R327). -/

namespace Sys2Proof

/-- The delayed branch instructions, the 15 rows with the d bit set (47_branch.md R325). -/
def Instr.isDelayedBranch : Instr → Bool
  | .jrgtDelayed _ | .jrgeDelayed _ | .jrltDelayed _ | .jrleDelayed _ | .jrugtDelayed _
  | .jrugeDelayed _ | .jrultDelayed _ | .jruleDelayed _ | .jreqDelayed _ | .jrneDelayed _
  | .callDelayed _ | .jpDelayed _ | .callRegDelayed _ | .jpRegDelayed _ | .retDelayed => true
  | _ => false

/-- The 38 forms that may be the delayed instruction (47_branch.md R327). -/
def Instr.isDelaySlotForm : Instr → Bool
  | .ldWReg _ _ | .ldWImm _ _ => true
  | .addReg _ _ | .addImm _ _ | .addSp _ | .adc _ _ => true
  | .subReg _ _ | .subImm _ _ | .subSp _ | .sbc _ _ => true
  | .mltH _ _ | .mltuH _ _ => true
  | .cmpReg _ _ | .cmpImm _ _ => true
  | .andReg _ _ | .andImm _ _ | .orReg _ _ | .orImm _ _
  | .xorReg _ _ | .xorImm _ _ | .notReg _ _ | .notImm _ _ => true
  | .srlReg _ _ | .srlImm _ _ | .sllReg _ _ | .sllImm _ _ | .sraReg _ _ | .sraImm _ _
  | .slaReg _ _ | .slaImm _ _ | .rrReg _ _ | .rrImm _ _ | .rlReg _ _ | .rlImm _ _ => true
  | .scan0 _ _ | .scan1 _ _ | .swap _ _ | .mirror _ _ => true
  | _ => false

end Sys2Proof
end

