-- ==== Sys2Proof/Machine/Flags.lean ====
section
/-! DEFINITION. The PSR fields (10_state.md R30) and every flag computation (00_scope.md R14, 41_logic.md R201, 44_shift_rotate.md R282, 48_system_ext_misc.md R381). -/

namespace Sys2Proof.Machine

/-- The implemented PSR bits (10_state.md R30). -/
def psrMask : Word := 0x00000FDF#32

/-- The number of each PSR bit (10_state.md R30). -/
def bitN : Nat := 0
def bitZ : Nat := 1
def bitV : Nat := 2
def bitC : Nat := 3
def bitIE : Nat := 4
def bitDS : Nat := 6
def bitMO : Nat := 7

/-- `p` with bit `i` set to `b` and every other bit kept. -/
def withBit (p : Word) (i : Nat) (b : Bool) : Word :=
  if b then p ||| (1#32 <<< i) else p &&& ~~~(1#32 <<< i)

/-- IL(3:0), bits 11:8 of the PSR (10_state.md R39). -/
def levelOf (p : Word) : BitVec 4 :=
  p.extractLsb' 8 4

/-- `p` with IL replaced (10_state.md R39). -/
def withLevel (p : Word) (level : BitVec 4) : Word :=
  (p &&& ~~~0x00000F00#32) ||| (level.setWidth 32 <<< 8)

/-- `p` with Z and N of a 32-bit result (41_logic.md R201, 44_shift_rotate.md R282). -/
def withZN (p res : Word) : Word :=
  withBit (withBit p bitZ (res == 0#32)) bitN res.msb

/-- A 32-bit result with the four arithmetic flags (00_scope.md R14). -/
structure ArithResult where
  res : Word
  c : Bool
  v : Bool
  z : Bool
  n : Bool
deriving DecidableEq, Repr

/-- `AddFlags(a, b, c)` (00_scope.md R14; the three-input sum of adc is D2). -/
def addFlags (a b : Word) (c : Bool) : ArithResult :=
  let sum33 : BitVec 33 := a.setWidth 33 + b.setWidth 33 + (BitVec.ofBool c).setWidth 33
  let res := sum33.setWidth 32
  { res := res
    c := sum33.getLsbD 32
    v := a.msb == b.msb && res.msb != a.msb
    z := res == 0#32
    n := res.msb }

/-- `SubFlags(a, b, c)` (00_scope.md R14; the three-input difference of sbc is D2). C is the borrow. -/
def subFlags (a b : Word) (c : Bool) : ArithResult :=
  let res := a - b - (BitVec.ofBool c).setWidth 32
  { res := res
    c := decide (a.toNat < b.toNat + c.toNat)
    v := a.msb != b.msb && res.msb != a.msb
    z := res == 0#32
    n := res.msb }

/-- `p` with C, V, Z and N of an addition or subtraction (42_arithmetic.md R221). -/
def withArith (p : Word) (r : ArithResult) : Word :=
  withBit (withBit (withBit (withBit p bitC r.c) bitV r.v) bitZ r.z) bitN r.n

/-- `p` with the flags of scan0 or scan1 for the found offset (48_system_ext_misc.md R381, R382). -/
def withScan (p : Word) (offset : Nat) : Word :=
  withBit (withBit (withBit (withBit p bitC (offset == 8)) bitV false) bitZ (offset == 0)) bitN false

end Sys2Proof.Machine
end

