-- ==== Sys2Proof/Config.lean ====
section
/-! DEFINITION. What a chip of the E0C33 Family fixes (00_scope.md R7) and the free values, which the spec leaves open (93_implementation_defined.md). -/

namespace Sys2Proof

/-- What stands at an address (the values of `MEM_MAP`, 00_scope.md R7). -/
inductive RegionKind where
  /-- Memory that can be read and written. -/
  | ram
  /-- Memory whose writes have no effect (20_memory.md R83). -/
  | rom
  /-- A device window (20_memory.md R84). Its behaviour is not in the spec (U8). -/
  | device
  /-- Nothing answers here (20_memory.md R83, U9). -/
  | unmapped
deriving DecidableEq, Repr

/-- One range of the memory map, first and last address included. -/
structure Region where
  first : Nat
  last : Nat
  kind : RegionKind
deriving DecidableEq, Repr

/-- The parameters of 00_scope.md R7 that are fixed for a machine. They are plain data inside the state
and no step changes them, so that every statement holds for every value of them. -/
structure Config where
  /-- `HAS_MULTIPLIER`: the optional multiplier is present. -/
  hasMultiplier : Bool
  /-- `BTA3`: the level of the BTA3 pin (70_reset_and_hazards.md R482). -/
  bta3 : Bool
  /-- `DEBUG_BASE` is 0x0060000 (true, for ICE use) or 0x0000000 (false). -/
  debugBaseIce : Bool
  /-- `ADDR_BITS`: the effective address size, at most 28. -/
  addrBits : Nat
  /-- `N_INTERRUPTS`: how many maskable interrupts exist, at most 216. -/
  nInterrupts : Nat
  /-- `MEM_MAP`: the first region that holds an address decides, an address in none is unmapped. -/
  memMap : List Region
deriving DecidableEq, Repr

/-- The boot address, selected by BTA3 (70_reset_and_hazards.md R482). -/
def Config.bootAddress (c : Config) : Word :=
  if c.bta3 then 0x00080000#32 else 0x00C00000#32

/-- `DEBUG_BASE` (00_scope.md R7, 60_exceptions.md R450). -/
def Config.debugBase (c : Config) : Word :=
  if c.debugBaseIce then 0x00060000#32 else 0x00000000#32

/-- The parameters `State.reset` uses. DESIGN CHOICE, unsafe: the spec leaves each to the chip or to the
platform (assumption log 1, and 5 for the map). -/
def Config.default : Config where
  hasMultiplier := true
  bta3 := true
  debugBaseIce := false
  addrBits := 28
  nInterrupts := 216
  memMap :=
    [⟨0x0040000, 0x005FFFF, .device⟩,   -- Area 1, internal peripheral circuit
     ⟨0x0300000, 0x03FFFFF, .device⟩,   -- Area 6, external I/O
     ⟨0x0000000, 0xFFFFFFF, .ram⟩]      -- every other area

/-- FREE VALUE. The byte that access number `access` of the step numbered `count` reads at a device or
unmapped address (U8, U9; assumption log 7, 8, 13). -/
opaque Config.freeByte (count access address : Nat) : Byte

/-- FREE VALUE. Whether a zero division trap that could be taken at the boundary of the step numbered
`count` comes one instruction later (U5, 60_exceptions.md R420; assumption log 14). -/
opaque Config.zeroDivisionLate (count : Nat) : Bool

/-- FREE VALUE. `DBRK_SKID`: how many more instructions run before the data break is delivered
(U7, 60_exceptions.md R456; assumption log 15). -/
opaque Config.dataBreakSkid (count : Nat) : Nat

/-- FREE VALUE. The word that the reset in the step numbered `count` leaves in the undefined register
number `index` (U1; assumption log 6). -/
opaque Config.resetWord (count index : Nat) : Word

end Sys2Proof
end

