-- ==== Sys2Proof/Machine/State.lean ====
section
/-! DEFINITION. The state of the E0C33000 (10_state.md R20 to R61), the ways a step can stop, and the state after reset. -/

namespace Sys2Proof.Machine

/-- EXT, the pending `ext` prefixes (10_state.md R50). -/
inductive Ext where
  | none
  | one (e1 : BitVec 13)
  | two (e1 e2 : BitVec 13)
deriving DecidableEq, Repr

/-- RUN, the power state (10_state.md R57). -/
inductive RunState where
  | running
  | halted
  | sleeping
deriving DecidableEq, Repr

/-- ZDIV_PENDING (10_state.md R59) with the free choice of U5 made explicit: a zero division is `raised` by
div0s or div0u; at the first unmasked boundary it is taken or becomes `late`; after one more instruction
it is `due` (60_exceptions.md R420; assumption log 14). -/
inductive ZeroDivision where
  | none
  | raised
  | late
  | due
deriving DecidableEq, Repr

/-- DBRK_PENDING (10_state.md R59) with the recorded access kinds and, once drawn, the number of instructions
still to run before the break is delivered (60_exceptions.md R451, R456; assumption log 15). -/
structure DataBreak where
  /-- a matching read was made: MRDB is recorded. -/
  read : Bool
  /-- a matching write was made: MWRB is recorded. -/
  write : Bool
  /-- `DBRK_SKID` once drawn, counted down by each executed instruction. -/
  wait : Option Nat
deriving DecidableEq, Repr

/-- Whether bits 5:1 of the byte 0x0078010 were written with a value other than 00111
(93_implementation_defined.md U6; assumption log 12). -/
inductive DebugControl where
  /-- no such value was written since reset. -/
  | ok
  /-- such a value was written. -/
  | misset
  /-- such a value was written and a debug register access or a debugging exception followed:
  the step that makes this so stops. -/
  | tripped
deriving DecidableEq, Repr

/-- One maskable interrupt request as the controller presents it (60_exceptions.md R430). -/
structure IrqRequest where
  level : BitVec 4
  /-- the number of the "Maskable external interrupt n" of 60_exceptions.md R401. -/
  n : Nat
deriving DecidableEq, Repr

/-- Cold start or hot start (70_reset_and_hazards.md R481). -/
inductive ResetKind where
  | cold
  | hot
deriving DecidableEq, Repr

/-- The environment's inputs to one step (00_scope.md R7; assumption log 20). -/
structure Input where
  /-- RESET_COLD or RESET_HOT. -/
  reset : Option ResetKind
  /-- NMI_EDGE, a falling edge on #NMI. -/
  nmiEdge : Bool
  /-- IRQ, the request presented at this boundary. -/
  irq : Option IrqRequest
  /-- BUSREQ, #BUSREQ is low. -/
  busreq : Bool
  /-- What the external bus master writes while the bus is released (20_memory.md R85). -/
  busWrites : List Host.Cell
deriving DecidableEq, Repr

/-- The environment asks for nothing. -/
def Input.quiet : Input where
  reset := none
  nmiEdge := false
  irq := none
  busreq := false
  busWrites := []

/-- Memory as address and byte pairs, in the canonical form of `Memory.wf` (Machine/Memory.lean). -/
abbrev Memory := List Host.Cell

/-- The state of the machine. -/
structure State where
  /-- R0 to R15 (10_state.md R21). -/
  regs : Vector Word 16
  /-- PC, bit 0 always 0 (10_state.md R24, R26). -/
  pc : Word
  /-- PSR, implemented bits 0x00000FDF (10_state.md R30, R31). -/
  psr : Word
  /-- SP, bits 1:0 always 0 (10_state.md R40). -/
  sp : Word
  /-- ALR (10_state.md R44). -/
  alr : Word
  /-- AHR (10_state.md R44). -/
  ahr : Word
  /-- TTBR, implemented bits 0x0FFFFC00 (10_state.md R46). -/
  ttbr : Word
  /-- TTBR_WE (10_state.md R47). -/
  ttbrWe : Bool
  /-- DCR byte 0x0078000, with DM in bit 0 (10_state.md R48, R55). -/
  dcr : Byte
  /-- DCR byte 0x0078010 (10_state.md R48). -/
  dcr2 : Byte
  /-- DSR byte 0x0078002 (10_state.md R49). -/
  dsr : Byte
  /-- DSR byte 0x0078012 (10_state.md R49). -/
  dsr2 : Byte
  /-- IBAR0 (10_state.md R52). -/
  ibar0 : Word
  /-- IBAR1 (10_state.md R52). -/
  ibar1 : Word
  /-- IBAR2 (10_state.md R52). -/
  ibar2 : Word
  /-- DBAR (10_state.md R53). -/
  dbar : Word
  /-- EXT (10_state.md R50). -/
  ext : Ext
  /-- DELAY, the target of a pending delayed branch (10_state.md R51). -/
  delay : Option Word
  /-- NMI_ARMED (10_state.md R54). -/
  nmiArmed : Bool
  /-- NMI_PENDING (10_state.md R56). -/
  nmiPending : Bool
  /-- RUN (10_state.md R57). -/
  run : RunState
  /-- BUS_RELEASED (10_state.md R58). -/
  busReleased : Bool
  /-- ZDIV_PENDING (10_state.md R59). -/
  zdiv : ZeroDivision
  /-- DBRK_PENDING (10_state.md R59). -/
  dbrk : Option DataBreak
  /-- RETD_SHADOW (10_state.md R60). -/
  retdShadow : Bool
  /-- memory (20_memory.md R70). -/
  mem : Memory
  /-- The model's own: the parameters of 00_scope.md R7, changed by no step (assumption log 1). -/
  cfg : Config
  /-- The model's own: the inputs of the coming steps, the next one first (assumption log 20). -/
  inputs : List Input
  /-- The model's own: the number of steps begun, which the free values are drawn with (assumption log 13). -/
  freeCount : Nat
  /-- The model's own: U6 (assumption log 12). -/
  debugCtl : DebugControl
  /-- The model's own: addresses of the bytes the running instruction has stored (U10; assumption log 16). -/
  storesNow : List Nat
  /-- The model's own: addresses stored by the instruction before the next one (U10). -/
  storesPrev : List Nat
  /-- The model's own: addresses stored by the instruction before that (U10). -/
  storesPrev2 : List Nat
deriving DecidableEq, Repr

/-- Why the machine stops where the manual calls the outcome undefined or not guaranteed. Each is safe: the
hardware goes on in some way and the model says nothing about it. -/
inductive Fault where
  /-- Raised by the step: the instruction after a `.d` branch is none of the 38 forms, "the operation will be
  undefined" (47_branch.md R328, U3; assumption log 17). Safe. -/
  | undefinedDelayedInstruction
  /-- Raised by the step: the instruction to be fetched was stored to by one of the two instructions before it
  (20_memory.md R90, U10; assumption log 16). Safe. -/
  | fetchOfStoredCode
  /-- Raised by the step: bits 5:1 of 0x0078010 were written with a value other than 00111 and a debug register
  access or a debugging exception follows, "will cause the debugging mode to not function normally"
  (10_state.md R48, U6; assumption log 12). Safe. -/
  | debugControlMisset
deriving DecidableEq, Repr

/-- Why a step has no meaning. Each is safe: no next state is claimed. -/
inductive Refusal where
  /-- Raised by `exec`: the instruction of this row has no meaning in the model yet. Safe. -/
  | notModelled (mnemonic : String)
  /-- Raised by the step: a row marked reserved was fetched (30_encoding.md R130, U2; assumption log 18). Safe. -/
  | reservedEncoding
  /-- Raised by the step: a code of class 7 was fetched (30_encoding.md R130, U2; assumption log 18). Safe. -/
  | reservedClass7
  /-- Raised by the step: a code with a 1 in a bit its row prints as 0 was fetched
  (30_encoding.md R131, U2; assumption log 18). Safe. -/
  | unassignedBitPattern
  /-- Raised by the step: a special-register number 4 to 15 was fetched
  (30_encoding.md R133, U11; assumption log 18). Safe. -/
  | reservedSpecialRegister
  /-- Raised by the step: the environment presents an interrupt number that no controller presents
  (60_exceptions.md R430, D22; assumption log 21). Safe. -/
  | impossibleInterruptNumber
deriving DecidableEq, Repr

/-- The machine right after a cold start with BTA3 = 1 (10_state.md R61, 70_reset_and_hazards.md R480, R482).
PSR, TTBR, TTBR_WE, DCR, DSR and the hidden state have the values of R61; PC is the word at the boot
address, which is 0 where memory lists nothing. DESIGN CHOICE, unsafe: the registers that R61 calls
undefined are 0 (assumption log 2), RAM reads 0 (3), and the parameters are `Config.default` (1, 5). -/
def State.reset : State where
  regs := Vector.replicate 16 0#32
  pc := 0#32
  psr := 0#32
  sp := 0#32
  alr := 0#32
  ahr := 0#32
  ttbr := 0x00080000#32
  ttbrWe := false
  dcr := 0#8
  dcr2 := 0#8
  dsr := 0#8
  dsr2 := 0#8
  ibar0 := 0#32
  ibar1 := 0#32
  ibar2 := 0#32
  dbar := 0#32
  ext := .none
  delay := none
  nmiArmed := false
  nmiPending := false
  run := .running
  busReleased := false
  zdiv := .none
  dbrk := none
  retdShadow := false
  mem := []
  cfg := Config.default
  inputs := []
  freeCount := 0
  debugCtl := .ok
  storesNow := []
  storesPrev := []
  storesPrev2 := []

end Sys2Proof.Machine
end

