-- ==== Sys2Proof/Machine/Memory.lean ====
section
/-! DEFINITION. Memory as a list of address and byte pairs in one canonical form (20_memory.md R70): read, write, and the form itself. -/

namespace Sys2Proof.Machine

/-- What an unlisted address reads as. DESIGN CHOICE, unsafe: the spec gives RAM no contents after reset
(10_state.md R61, U1; assumption log 3). -/
def unlistedByte : Byte := 0#8

/-- The byte at an address. -/
def Memory.read : Memory → Nat → Byte
  | [], _ => unlistedByte
  | (a', b') :: rest, a => if a = a' then b' else Memory.read rest a

/-- List the byte at its place in address order. -/
def Memory.insert : Memory → Nat → Byte → Memory
  | [], a, b => [(a, b)]
  | (a', b') :: rest, a, b =>
    if a < a' then (a, b) :: (a', b') :: rest
    else if a = a' then (a, b) :: rest
    else (a', b') :: Memory.insert rest a b

/-- Write one byte and keep the canonical form: writing what an unlisted address reads as removes the entry. -/
def Memory.write (m : Memory) (a : Nat) (b : Byte) : Memory :=
  if b = unlistedByte then m.filter fun c => c.1 != a else m.insert a b

/-- The canonical form from the address `low` upward: addresses strictly rising and inside the 28-bit space,
and no entry equal to what an unlisted address reads as. -/
def Memory.wfFrom : Nat → Memory → Bool
  | _, [] => true
  | low, (a, b) :: rest =>
    decide (low ≤ a) && decide (a < 2 ^ 28) && decide (b ≠ unlistedByte) && Memory.wfFrom (a + 1) rest

/-- The canonical form. -/
def Memory.wf (m : Memory) : Bool :=
  Memory.wfFrom 0 m

end Sys2Proof.Machine
end

