-- ==== Sys2Proof/Machine/Operands.lean ====
section
/-! DEFINITION. How each operand form is assembled from the instruction's field and the pending `ext` (30_encoding.md R114, R121 to R126). -/

namespace Sys2Proof.Machine

/-- The data sizes of memory accesses (00_scope.md R9). -/
inductive Size where
  | byte
  | half
  | word
deriving DecidableEq, Repr

/-- The number of bytes of a size. -/
def Size.bytes : Size → Nat
  | .byte => 1
  | .half => 2
  | .word => 4

/-- imm6 of `add %rd,imm6` and `sub %rd,imm6`, extended with zeros (30_encoding.md R121). -/
def immOperand (e : Ext) (imm6 : BitVec 6) : Word :=
  match e with
  | .none => imm6.setWidth 32
  | .one e1 => (e1 ++ imm6).setWidth 32
  | .two e1 e2 => e1 ++ e2 ++ imm6

/-- sign6 of the `%rd,sign6` forms, extended with the sign (30_encoding.md R122). -/
def signOperand (e : Ext) (sign6 : BitVec 6) : Word :=
  match e with
  | .none => sign6.signExtend 32
  | .one e1 => (e1 ++ sign6).signExtend 32
  | .two e1 e2 => e1 ++ e2 ++ sign6

/-- The immediate that `ext` alone supplies, imm13 or imm26, extended with zeros
(30_encoding.md R123, R125); none without `ext`. -/
def extImmediate : Ext → Option Word
  | .none => none
  | .one e1 => some (e1.setWidth 32)
  | .two e1 e2 => some ((e1 ++ e2).setWidth 32)

/-- The two operands of add, sub, cmp, and, or, xor with `%rd,%rs` (30_encoding.md R125). -/
def registerOperands (e : Ext) (rd rs : Word) : Word × Word :=
  match extImmediate e with
  | none => (rd, rs)
  | some imm => (rs, imm)

/-- The address of the `[%rb]` forms from the content of rb (30_encoding.md R123). -/
def indirectAddress (e : Ext) (rb : Word) : Word :=
  match extImmediate e with
  | none => rb
  | some imm => rb + imm

/-- The low six bits of an extended SP displacement (30_encoding.md R124). -/
def spLow6 (size : Size) (imm6 : BitVec 6) : BitVec 6 :=
  match size with
  | .byte => imm6
  | .half => imm6 &&& 0b111110#6
  | .word => imm6 &&& 0b111100#6

/-- The displacement of the `[%sp+imm6]` forms (30_encoding.md R124, 40_data_transfer.md R152). -/
def spDisplacement (e : Ext) (size : Size) (imm6 : BitVec 6) : Word :=
  match e with
  | .none => imm6.setWidth 32 * BitVec.ofNat 32 size.bytes
  | .one e1 => (e1 ++ spLow6 size imm6).setWidth 32
  | .two e1 e2 => e1 ++ e2 ++ spLow6 size imm6

/-- The displacement of the PC-relative branches (30_encoding.md R126, 47_branch.md R322). -/
def branchDisplacement (e : Ext) (sign8 : BitVec 8) : Word :=
  match e with
  | .none => (sign8 ++ 0#1).signExtend 32
  | .one e1 => (e1 ++ sign8 ++ 0#1).signExtend 32
  | .two e1 e2 => e1.extractLsb' 3 10 ++ e2 ++ sign8 ++ 0#1

/-- imm10 of `add %sp` and `sub %sp`, quadrupled (30_encoding.md R114). -/
def spImmediate (imm10 : BitVec 10) : Word :=
  (imm10 ++ 0#2).setWidth 32

/-- EXT after `ext imm13` (48_system_ext_misc.md R375). -/
def Ext.extend (e : Ext) (imm13 : BitVec 13) : Ext :=
  match e with
  | .none => .one imm13
  | .one e1 => .two e1 imm13
  | .two e1 _ => .two e1 imm13

end Sys2Proof.Machine
end

