-- ==== Sys2Proof/Machine/Ops.lean ====
section
/-! DEFINITION. The named operations over registers and memory, the stack, branches, taking a trap and a debugging exception, and the returns from them. Every instruction meaning is built from these. -/

namespace Sys2Proof.Machine

/-- What a meaning or a step answers. -/
abbrev Result := Host.Outcome State Fault Refusal

/-! ### Registers -/

/-- `v` as PC holds it: bit 0 is 0 (10_state.md R26). -/
def maskPc (v : Word) : Word := v &&& 0xFFFFFFFE#32

/-- `v` as SP holds it: bits 1:0 are 0 (10_state.md R40). -/
def maskSp (v : Word) : Word := v &&& 0xFFFFFFFC#32

/-- `v` as TTBR holds it (10_state.md R46). -/
def maskTtbr (v : Word) : Word := v &&& 0x0FFFFC00#32

/-- `v` as an instruction break address register holds it (10_state.md R52). -/
def maskIbar (v : Word) : Word := v &&& 0x0FFFFFFE#32

/-- `v` as DBAR holds it (10_state.md R53). -/
def maskDbar (v : Word) : Word := v &&& 0x0FFFFFFF#32

/-- A general-purpose register. -/
def State.reg (s : State) (r : Reg) : Word := s.regs[r]

/-- Write a general-purpose register: all 32 bits are replaced (10_state.md R22). -/
def State.setReg (s : State) (r : Reg) (v : Word) : State := { s with regs := s.regs.set r v }

/-- The register `k` places after `r`, modulo 16 (43_multiply_divide_mac.md R270). -/
def nextReg (r : Reg) (k : Nat) : Reg := Fin.ofNat 16 (r.val + k)

/-- DM = 0 (10_state.md R55). -/
def State.userMode (s : State) : Bool := !s.dcr.getLsbD 0

/-- The instruction ends at the next address and the pending `ext` is used up (10_state.md R24, R50). -/
def State.advance (s : State) : State := { s with pc := s.pc + 2#32, ext := .none }

/-! ### The bus -/

/-- The address the bus sees: the low 28 bits, or ADDR_BITS if the chip has fewer (20_memory.md R72). -/
def busAddress (c : Config) (x : Word) : Nat := x.toNat % 2 ^ min 28 c.addrBits

/-- The bus address of byte `i` of an access at `x` (20_memory.md R72, R73). -/
def State.byteAddress (s : State) (x : Word) (i : Nat) : Nat :=
  busAddress s.cfg (x + BitVec.ofNat 32 i)

/-- What MEM_MAP gives at an address (00_scope.md R7). -/
def kindAt (c : Config) (a : Nat) : RegionKind :=
  match c.memMap.find? fun r => decide (r.first ≤ a) && decide (a ≤ r.last) with
  | some r => r.kind
  | none => .unmapped

/-- Byte `i` of a word, little endian (20_memory.md R73). -/
def byteOf (w : Word) (i : Nat) : Byte := w.extractLsb' (8 * i) 8

/-- `w` with byte `i` replaced. -/
def withByte (w : Word) (i : Nat) (b : Byte) : Word :=
  (w &&& ~~~(0xFF#32 <<< (8 * i))) ||| (b.setWidth 32 <<< (8 * i))

/-- The address of TBRP (10_state.md R47). -/
def tbrpAddress : Nat := 0x004812D

/-- The first address of TTBR (10_state.md R46). -/
def ttbrAddress : Nat := 0x0048134

/-- The first address of the debug registers (60_exceptions.md R459). -/
def debugRegistersFirst : Nat := 0x0078000

/-- The last address of the debug registers (60_exceptions.md R459). -/
def debugRegistersLast : Nat := 0x0078017

/-- The last address of the window that user mode may not write (20_memory.md R82). -/
def debugWindowLast : Nat := 0x007FFFF

/-- The bytes that the core itself holds at addresses: TBRP, TTBR, the debug registers; `i` numbers the bytes of a
word register, 0 being the least significant (10_state.md R46 to R53; assumption log 9, 10). -/
inductive MappedByte where
  | tbrp
  | ttbr (i : Nat)
  | dcr
  | dsr
  | ibar0 (i : Nat)
  | ibar1 (i : Nat)
  | dbar (i : Nat)
  | dcr2
  | dsr2
  | ibar2 (i : Nat)
deriving DecidableEq, Repr

/-- Which such byte lies at an address (10_state.md R46 to R53). -/
def mappedByte? (a : Nat) : Option MappedByte :=
  if a = tbrpAddress then some .tbrp
  else if ttbrAddress ≤ a ∧ a < ttbrAddress + 4 then some (.ttbr (a - ttbrAddress))
  else if a = 0x78000 then some .dcr
  else if a = 0x78002 then some .dsr
  else if 0x78004 ≤ a ∧ a < 0x78008 then some (.ibar0 (a - 0x78004))
  else if 0x78008 ≤ a ∧ a < 0x7800C then some (.ibar1 (a - 0x78008))
  else if 0x7800C ≤ a ∧ a < 0x78010 then some (.dbar (a - 0x7800C))
  else if a = 0x78010 then some .dcr2
  else if a = 0x78012 then some .dsr2
  else if 0x78014 ≤ a ∧ a < 0x78018 then some (.ibar2 (a - 0x78014))
  else none

/-- A read of a mapped byte; TBRP reads as 0 (10_state.md R46 to R53). -/
def State.readMapped (s : State) : MappedByte → Byte
  | .tbrp => 0#8
  | .ttbr i => byteOf s.ttbr i
  | .dcr => s.dcr
  | .dsr => s.dsr
  | .ibar0 i => byteOf s.ibar0 i
  | .ibar1 i => byteOf s.ibar1 i
  | .dbar i => byteOf s.dbar i
  | .dcr2 => s.dcr2
  | .dsr2 => s.dsr2
  | .ibar2 i => byteOf s.ibar2 i

/-- A write of TBRP: 0x59 enables writes of TTBR, any other value disables them (10_state.md R47). -/
def State.writeTbrp (s : State) (b : Byte) : State := { s with ttbrWe := b == 0x59#8 }

/-- A write of byte `i` of TTBR: it takes effect while TTBR_WE is set, and a write of the most significant byte
clears TTBR_WE afterwards (10_state.md R46, R47). -/
def State.writeTtbrByte (s : State) (i : Nat) (b : Byte) : State :=
  { s with
    ttbr := if s.ttbrWe then maskTtbr (withByte s.ttbr i b) else s.ttbr
    ttbrWe := s.ttbrWe && i != 3 }

/-- A write of the DCR byte 0x0078000: bits 6 to 1 are written, DM is read-only (10_state.md R48). -/
def State.writeDcr (s : State) (b : Byte) : State :=
  { s with dcr := (b &&& 0x7E#8) ||| (s.dcr &&& 0x01#8) }

/-- A write of the DCR byte 0x0078010: the value is stored, and bits 5:1 other than 00111 are remembered
(10_state.md R48, U6; assumption log 12). -/
def State.writeDcr2 (s : State) (b : Byte) : State :=
  { s with
    dcr2 := b &&& 0x3F#8
    debugCtl :=
      if b.extractLsb' 1 5 ≠ 0b00111#5 ∧ s.debugCtl = .ok then .misset else s.debugCtl }

/-- A write of a mapped byte (10_state.md R46 to R53). -/
def State.writeMapped (s : State) (r : MappedByte) (b : Byte) : State :=
  match r with
  | .tbrp => s.writeTbrp b
  | .ttbr i => s.writeTtbrByte i b
  | .dcr => s.writeDcr b
  | .dsr => { s with dsr := b }
  | .ibar0 i => { s with ibar0 := maskIbar (withByte s.ibar0 i b) }
  | .ibar1 i => { s with ibar1 := maskIbar (withByte s.ibar1 i b) }
  | .dbar i => { s with dbar := maskDbar (withByte s.dbar i b) }
  | .dcr2 => s.writeDcr2 b
  | .dsr2 => { s with dsr2 := b &&& 0x01#8 }
  | .ibar2 i => { s with ibar2 := maskIbar (withByte s.ibar2 i b) }

/-- Read the byte at a bus address: a core register, RAM or ROM, or a free value where a device or nothing
answers (20_memory.md R70, R83, U8, U9). `access` numbers the accesses of one step, 0 being the fetch. -/
def State.readByte (s : State) (access a : Nat) : Byte :=
  match mappedByte? a with
  | some r => s.readMapped r
  | none =>
    match kindAt s.cfg a with
    | .ram | .rom => Memory.read s.mem a
    | .device | .unmapped => Config.freeByte s.freeCount access a

/-- Write the byte at a bus address. User mode does not write 0x0078000 to 0x007FFFF (20_memory.md R82);
ROM, devices and unmapped addresses take no write (20_memory.md R83, U8, U9). -/
def State.writeByte (s : State) (a : Nat) (b : Byte) : State :=
  if debugRegistersFirst ≤ a ∧ a ≤ debugWindowLast ∧ s.userMode then s
  else
    match mappedByte? a with
    | some r => s.writeMapped r b
    | none =>
      match kindAt s.cfg a with
      | .ram => { s with mem := Memory.write s.mem a b }
      | .rom | .device | .unmapped => s

/-- `MemRead(x, 1)` (20_memory.md R73). -/
def State.read8 (s : State) (access : Nat) (x : Word) : Byte :=
  s.readByte access (s.byteAddress x 0)

/-- `MemRead(x, 2)`, little endian (20_memory.md R73). -/
def State.read16 (s : State) (access : Nat) (x : Word) : Half :=
  s.readByte access (s.byteAddress x 1) ++ s.readByte access (s.byteAddress x 0)

/-- `MemRead(x, 4)`, little endian (20_memory.md R73). -/
def State.read32 (s : State) (access : Nat) (x : Word) : Word :=
  s.readByte access (s.byteAddress x 3) ++ s.readByte access (s.byteAddress x 2)
    ++ s.readByte access (s.byteAddress x 1) ++ s.readByte access (s.byteAddress x 0)

/-- `MemWrite(x, n, v)` for the `n` low bytes of `v`, lowest address first (20_memory.md R73). -/
def State.writeBytes (s : State) (x v : Word) : Nat → State
  | 0 => s
  | n + 1 => (State.writeBytes s x v n).writeByte (s.byteAddress x n) (byteOf v n)

/-- The bus addresses of the bytes of an access, lowest first. -/
def State.accessAddresses (s : State) (size : Size) (x : Word) : List Nat :=
  (List.range size.bytes).map (s.byteAddress x)

/-! ### What an access leaves behind -/

/-- An access to a debug register after a wrong write of 0x0078010 trips the stop of U6
(10_state.md R48; assumption log 12). -/
def State.touch (s : State) (size : Size) (x : Word) : State :=
  if s.debugCtl = .misset ∧
      (s.accessAddresses size x).any fun a =>
        decide (debugRegistersFirst ≤ a) && decide (a ≤ debugRegistersLast) then
    { s with debugCtl := .tripped }
  else s

/-- A data access of an instruction matches the data break: user mode, DBE, the enable of its direction, and its base
address on the bus equal to DBAR (60_exceptions.md R456). -/
def State.dataBreakMatches (s : State) (write : Bool) (x : Word) : Bool :=
  s.userMode && s.dcr.getLsbD 4 && s.dcr.getLsbD (if write then 6 else 5) && s.byteAddress x 0 == s.dbar.toNat

/-- A matching access is recorded beside one already recorded (60_exceptions.md R456). -/
def State.armDataBreak (s : State) (write : Bool) (x : Word) : State :=
  if s.dataBreakMatches write x then
    let old := s.dbrk.getD ⟨false, false, none⟩
    { s with dbrk := some { old with read := old.read || !write, write := old.write || write } }
  else s

/-- The traces of a data read by an instruction. -/
def State.noteRead (s : State) (size : Size) (x : Word) : State :=
  (s.touch size x).armDataBreak false x

/-- The traces of a data write by an instruction; the stored addresses are kept for U10. -/
def State.noteWrite (s : State) (size : Size) (x : Word) : State :=
  let t := (s.touch size x).armDataBreak true x
  { t with storesNow := t.storesNow ++ t.accessAddresses size x }

/-! ### Loads and stores -/

/-- An address that is not a multiple of the size (20_memory.md R75, 60_exceptions.md R421). -/
def misaligned (size : Size) (x : Word) : Bool :=
  match size with
  | .byte => false
  | .half => x.getLsbD 0
  | .word => x.getLsbD 0 || x.getLsbD 1

/-- `v` extended to 32 bits with its sign or with zeros (00_scope.md R13). -/
def extended {n : Nat} (signed : Bool) (v : BitVec n) : Word :=
  if signed then v.signExtend 32 else v.setWidth 32

/-- The value a load puts into its register (40_data_transfer.md R154). -/
def State.loadValue (s : State) (access : Nat) (size : Size) (signed : Bool) (x : Word) : Word :=
  match size with
  | .byte => extended signed (s.read8 access x)
  | .half => extended signed (s.read16 access x)
  | .word => s.read32 access x

/-- A data write by an instruction: the low bytes of `v` go to memory (40_data_transfer.md R155). -/
def State.store (s : State) (size : Size) (x v : Word) : State :=
  State.writeBytes (s.noteWrite size x) x v size.bytes

/-! ### The stack -/

/-- Whether an access is made by an instruction's own rule or by the hardware's trap entry
(60_exceptions.md R456: the latter does not arm a data break). -/
inductive Agent where
  | instruction
  | hardware
deriving DecidableEq, Repr

/-- `Push(v)` (10_state.md R41). -/
def State.push (s : State) (agent : Agent) (v : Word) : State :=
  let t := { s with sp := s.sp - 4#32 }
  match agent with
  | .instruction => t.store .word t.sp v
  | .hardware => State.writeBytes (t.touch .word t.sp) t.sp v 4

/-- The word `Pop()` returns (10_state.md R41). -/
def State.top (s : State) (access : Nat) : Word := s.read32 access s.sp

/-- The state after `Pop()` by an instruction (10_state.md R41). -/
def State.pop (s : State) : State :=
  let t := s.noteRead .word s.sp
  { t with sp := t.sp + 4#32 }

/-! ### Taking a trap and returning from it -/

/-- The state with the vector at `TTBR + offset` loaded into PC (60_exceptions.md R410). -/
def State.loadVector (s : State) (access : Nat) (offset : Word) : State :=
  let x := s.ttbr + offset
  { (s.touch .word x) with pc := maskPc (s.read32 access x) }

/-- `TrapEntry(offset, ret, level)` (60_exceptions.md R410): PC and PSR are pushed, IE is cleared, IL is set for
a maskable interrupt, and the vector is loaded. `agent` tells `int` from the traps the hardware takes. -/
def State.trapEntry (s : State) (agent : Agent) (offset ret : Word) (level : Option (BitVec 4)) : State :=
  let s2 := (s.push agent ret).push agent s.psr
  let psr := withBit s2.psr bitIE false
  let s3 := { s2 with psr := match level with | none => psr | some l => withLevel psr l }
  { (s3.loadVector 1 offset) with ext := .none, run := .running }

/-- The address error exception of the instruction at PC (60_exceptions.md R421, R423). -/
def State.addressError (s : State) : State :=
  s.trapEntry .hardware 24#32 s.pc none

/-- The return of `reti`: PSR, then PC (47_branch.md R351, 60_exceptions.md R411). -/
def State.trapReturn (s : State) : State :=
  let s1 := { s.pop with psr := s.top 1 &&& psrMask }
  { s1.pop with pc := maskPc (s1.top 2), ext := .none }

/-- The debugging exception entry (60_exceptions.md R450, R451): PC and R0 go to the two fixed words, the cause
bits are set in the DSR, DM is set and the debug vector is loaded. Its accesses are not compared with DBAR, also where
`brk` makes the entry (47_branch.md R354; DESIGN CHOICE, unsafe, assumption log 15: the list of R456 names `brk`
neither way). -/
def State.debugEntry (s : State) (ret : Word) (causes causes2 : Byte) : State :=
  let base := Config.debugBase s.cfg
  let s0 := if s.debugCtl = .misset then { s with debugCtl := .tripped } else s
  let s1 := State.writeBytes s0 (base + 8#32) ret 4
  let s2 := State.writeBytes s1 (base + 12#32) (s.reg 0) 4
  let s3 := { s2 with dsr := s2.dsr ||| causes, dsr2 := s2.dsr2 ||| causes2, dcr := s2.dcr ||| 0x01#8 }
  { s3 with pc := maskPc (s3.read32 1 base), ext := .none }

/-- The return of `retd`: R0 and PC come back from the two fixed words, DM is cleared and the shadow set
(47_branch.md R352). In user mode its two reads are compared with DBAR like every data access of an instruction
(60_exceptions.md R456; DESIGN CHOICE, assumption log 15: the list of R456 does not name `retd`). -/
def State.debugReturn (s : State) : State :=
  let base := Config.debugBase s.cfg
  let t := (s.noteRead .word (base + 12#32)).noteRead .word (base + 8#32)
  { t with
    regs := t.regs.set 0 (s.read32 1 (base + 12#32))
    pc := maskPc (s.read32 2 (base + 8#32))
    dcr := t.dcr &&& 0xFE#8
    retdShadow := true
    ext := .none }

/-! ### Shared shapes of meanings -/

/-- `Load` into a register (40_data_transfer.md R154). -/
def State.loadTo (s : State) (rd : Reg) (size : Size) (signed : Bool) (x : Word) : State :=
  if misaligned size x then s.addressError
  else ((s.noteRead size x).setReg rd (s.loadValue 1 size signed x)).advance

/-- `LoadPostInc` (40_data_transfer.md R156): if rd is rb the incremented address wins. -/
def State.loadPost (s : State) (rd rb : Reg) (size : Size) (signed : Bool) : State :=
  let x := s.reg rb
  if misaligned size x then s.addressError
  else
    (((s.noteRead size x).setReg rd (s.loadValue 1 size signed x)).setReg rb
      (x + BitVec.ofNat 32 size.bytes)).advance

/-- `Store` of a register (40_data_transfer.md R155). -/
def State.storeFrom (s : State) (rs : Reg) (size : Size) (x : Word) : State :=
  if misaligned size x then s.addressError
  else (s.store size x (s.reg rs)).advance

/-- `StorePostInc` (40_data_transfer.md R156, R195): the stored value is the one before the increment. -/
def State.storePost (s : State) (rb rs : Reg) (size : Size) : State :=
  let x := s.reg rb
  if misaligned size x then s.addressError
  else ((s.store size x (s.reg rs)).setReg rb (x + BitVec.ofNat 32 size.bytes)).advance

/-- The address of the `[%rb]` forms (40_data_transfer.md R153). -/
def State.indirect (s : State) (rb : Reg) : Word := indirectAddress s.ext (s.reg rb)

/-- The address of the `[%sp+imm6]` forms (40_data_transfer.md R152). -/
def State.spAddress (s : State) (size : Size) (imm6 : BitVec 6) : Word :=
  s.sp + spDisplacement s.ext size imm6

/-- A result with Z and N goes to rd (41_logic.md R201, 44_shift_rotate.md R282). -/
def State.resultZN (s : State) (rd : Reg) (res : Word) : State :=
  ({ s with psr := withZN s.psr res }.setReg rd res).advance

/-- A result with C, V, Z and N goes to rd (42_arithmetic.md R221). -/
def State.resultArith (s : State) (rd : Reg) (r : ArithResult) : State :=
  ({ s with psr := withArith s.psr r }.setReg rd r.res).advance

/-- `BranchTo(d, t)` (47_branch.md R325). -/
def State.branchTo (s : State) (delayed : Bool) (t : Word) : State :=
  if delayed then { s.advance with delay := some t } else { s with pc := t, ext := .none }

/-- `NoBranch(d)` (47_branch.md R325). -/
def State.noBranch (s : State) (delayed : Bool) : State :=
  if delayed then { s.advance with delay := some (s.pc + 4#32) } else s.advance

/-- The target of a PC-relative branch (47_branch.md R322). -/
def State.target (s : State) (sign8 : BitVec 8) : Word :=
  s.pc + branchDisplacement s.ext sign8

/-- The ten conditional branches (47_branch.md R323, R325). -/
def State.branchIf (s : State) (cond delayed : Bool) (sign8 : BitVec 8) : State :=
  if cond then s.branchTo delayed (s.target sign8) else s.noBranch delayed

/-- The calls: the return address is pushed, `.d` skips the delayed instruction (47_branch.md R329, R341, R345). -/
def State.callTo (s : State) (delayed : Bool) (t : Word) : State :=
  (s.push .instruction (s.pc + if delayed then 4#32 else 2#32)).branchTo delayed t

/-- The returns `ret` and `ret.d` (47_branch.md R350). -/
def State.returnBy (s : State) (delayed : Bool) : State :=
  s.pop.branchTo delayed (maskPc (s.top 1))

end Sys2Proof.Machine
end

