-- ==== Sys2Proof/Machine/Boundary.lean ====
section
/-! DEFINITION. What the step does around an instruction: the inputs, reset, bus release, the traps of a boundary, the fetch, and the end of the step (60_exceptions.md R402, 70_reset_and_hazards.md R480). -/

namespace Sys2Proof.Machine

/-! ### Inputs and reset -/

/-- The input of the step that begins now; a step without a listed input is a quiet one (assumption log 20). -/
def State.nextInput (s : State) : Input := s.inputs.head?.getD Input.quiet

/-- The step has begun: its input is used up and the free values are new ones (assumption log 13, 20). -/
def State.begun (s : State) : State := { s with inputs := s.inputs.tail, freeCount := s.freeCount + 1 }

/-- An interrupt number that no controller presents: n ≥ N_INTERRUPTS, or above the 216 of the table
(60_exceptions.md R401, R430; assumption log 21). -/
def impossibleRequest (c : Config) (irq : Option IrqRequest) : Bool :=
  match irq with
  | none => false
  | some q => decide (min c.nInterrupts 216 ≤ q.n)

/-- An edge on #NMI is latched if the NMI is armed and dropped if not; bus release follows #BUSREQ
(60_exceptions.md R424, R465; 10_state.md R56). -/
def State.latch (s : State) (i : Input) : State :=
  { s with nmiPending := s.nmiPending || (i.nmiEdge && s.nmiArmed), busReleased := i.busreq }

/-- The address of the reset vector: the boot address for a cold start, TTBR for a hot start
(70_reset_and_hazards.md R482). -/
def State.resetVectorAddress (s : State) (kind : ResetKind) : Word :=
  match kind with
  | .cold => Config.bootAddress s.cfg
  | .hot => s.ttbr

/-- The reset processing (70_reset_and_hazards.md R480). The registers it leaves undefined get free values
(U1; assumption log 6); memory is not touched. -/
def State.resetProcessing (s : State) (kind : ResetKind) : State :=
  let undefinedWord := Config.resetWord s.freeCount
  let t : State :=
    { s with
      psr := 0#32
      regs := Vector.ofFn fun i : Fin 16 => undefinedWord i.val
      sp := maskSp (undefinedWord 16)
      alr := undefinedWord 17
      ahr := undefinedWord 18
      ttbr := s.resetVectorAddress kind
      ttbrWe := false
      dcr := 0#8
      dcr2 := 0#8
      dsr := 0#8
      dsr2 := 0#8
      ibar0 := maskIbar (undefinedWord 19)
      ibar1 := maskIbar (undefinedWord 20)
      ibar2 := maskIbar (undefinedWord 21)
      dbar := maskDbar (undefinedWord 22)
      ext := .none
      delay := none
      retdShadow := false
      nmiArmed := false
      nmiPending := false
      zdiv := .none
      dbrk := none
      run := .running
      debugCtl := .ok
      storesNow := []
      storesPrev := []
      storesPrev2 := [] }
  { t with pc := maskPc (t.read32 1 t.ttbr) }

/-! ### Bus release -/

/-- The first address of the external areas, Area 4 upward (20_memory.md R80). -/
def externalFirst : Nat := 0x0100000

/-- One byte written by the external bus master: only external RAM takes it (20_memory.md R85; assumption log 23). -/
def State.masterWrite (s : State) (cell : Host.Cell) : State :=
  let a := busAddress s.cfg (BitVec.ofNat 32 cell.1)
  if externalFirst ≤ a ∧ kindAt s.cfg a = .ram then { s with mem := Memory.write s.mem a cell.2 } else s

/-- What the external bus master writes during this step, in order (60_exceptions.md R465). -/
def State.masterWrites (s : State) (cells : List Host.Cell) : State :=
  cells.foldl State.masterWrite s

/-! ### The traps of a boundary -/

/-- The masks that hold every trap of a boundary: a pending `ext`, a pending delayed branch, the shadow of `retd`
(60_exceptions.md R406 (1), (2), (6)). -/
def State.masked (s : State) : Bool :=
  s.ext != .none || s.delay.isSome || s.retdShadow

/-- At the first unmasked boundary after a zero division the free choice of U5 is drawn: the trap is due now, or
one instruction later (60_exceptions.md R420; assumption log 14). -/
def State.drawZeroDivision (s : State) : State :=
  if s.zdiv = .raised then
    { s with zdiv := if Config.zeroDivisionLate s.freeCount then .late else .due }
  else s

/-- At the first unmasked user-mode boundary after a matching access DBRK_SKID is drawn
(60_exceptions.md R456; assumption log 15). -/
def State.drawDataBreak (s : State) : State :=
  match s.dbrk with
  | some b =>
    if b.wait = none then { s with dbrk := some { b with wait := some (Config.dataBreakSkid s.freeCount) } }
    else s
  | none => s

/-- The data break that is due at this boundary (60_exceptions.md R451). -/
def State.dueDataBreak (s : State) : Option DataBreak :=
  s.dbrk.filter fun b => b.wait == some 0

/-- An instruction break address equals the PC in bits 27:1 (60_exceptions.md R454). -/
def breakMatches (ibar pc : Word) : Bool :=
  ibar.extractLsb' 1 27 == pc.extractLsb' 1 27

/-- `bit` if `b`, else 0. -/
def bitIf (b : Bool) (bit : Byte) : Byte := if b then bit else 0#8

/-- The causes of a debugging exception at this boundary, as the bits of the DSR byte 0x0078002
(60_exceptions.md R451, R458). -/
def State.debugCauses (s : State) : Byte :=
  bitIf (s.dcr.getLsbD 1) 0x02#8
    ||| bitIf (s.dcr.getLsbD 2 && breakMatches s.ibar0 s.pc) 0x04#8
    ||| bitIf (s.dcr.getLsbD 3 && breakMatches s.ibar1 s.pc) 0x08#8
    ||| (match s.dueDataBreak with
        | some b => 0x10#8 ||| bitIf b.read 0x20#8 ||| bitIf b.write 0x40#8
        | none => 0#8)

/-- The causes as the bits of the DSR byte 0x0078012 (60_exceptions.md R451). -/
def State.debugCauses2 (s : State) : Byte :=
  bitIf (s.dcr2.getLsbD 0 && breakMatches s.ibar2 s.pc) 0x01#8

/-- A debugging exception at a boundary uses up the data break that is due (60_exceptions.md R451). -/
def State.takeDebug (s : State) : State :=
  let t := s.debugEntry s.pc s.debugCauses s.debugCauses2
  if s.dueDataBreak.isSome then { t with dbrk := none } else t

/-- The request that is accepted: IE is set and its level is above IL (60_exceptions.md R431). -/
def State.acceptable (s : State) (irq : Option IrqRequest) : Option IrqRequest :=
  irq.filter fun q => s.psr.getLsbD bitIE && decide ((levelOf s.psr).toNat < q.level.toNat)

/-- What a boundary answers. -/
inductive Boundary where
  /-- a trap was taken; it is the whole step. -/
  | taken (s : State)
  /-- no trap was taken. -/
  | passed (s : State)
deriving DecidableEq, Repr

/-- Lines 2c and 2d of 60_exceptions.md R402: the NMI, then a maskable interrupt. Both wait in debugging mode. -/
def State.takeInterrupt (s : State) (irq : Option IrqRequest) : Boundary :=
  if s.userMode && s.nmiArmed && s.nmiPending then
    .taken ({ s with nmiPending := false }.trapEntry .hardware 28#32 s.pc none)
  else if s.userMode then
    match s.acceptable irq with
    | some q => .taken (s.trapEntry .hardware (BitVec.ofNat 32 (64 + 4 * q.n)) s.pc (some q.level))
    | none => .passed s
  else .passed s

/-- Lines 2b to 2d of 60_exceptions.md R402: a debugging exception in user mode while running, else an interrupt. -/
def State.takeDebugOrInterrupt (s : State) (irq : Option IrqRequest) : Boundary :=
  if s.userMode && s.run == .running then
    let t := s.drawDataBreak
    if t.debugCauses != 0#8 || t.debugCauses2 != 0#8 then .taken t.takeDebug
    else t.takeInterrupt irq
  else s.takeInterrupt irq

/-- Line 2 of 60_exceptions.md R402: at an unmasked boundary a due zero division comes first. -/
def State.boundary (s : State) (irq : Option IrqRequest) : Boundary :=
  if s.masked then .passed s
  else
    let t := s.drawZeroDivision
    if t.zdiv = .due then .taken ({ t with zdiv := .none }.trapEntry .hardware 16#32 t.pc none)
    else t.takeDebugOrInterrupt irq

/-! ### The instruction of a step -/

/-- The name of a refused code (U2; assumption log 18). -/
def decodeRefusal (e : DecodeError) : Refusal :=
  match e with
  | .reservedOperation | .truncated => .reservedEncoding
  | .reservedClass => .reservedClass7
  | .fixedBitSet => .unassignedBitPattern
  | .reservedSpecialRegister => .reservedSpecialRegister

/-- The code at PC, read as one half word (20_memory.md R74, 30_encoding.md R100). -/
def State.fetchCode (s : State) : BitVec 16 :=
  codeOfBytes (s.readByte 0 (s.byteAddress s.pc 0)) (s.readByte 0 (s.byteAddress s.pc 1))

/-- One of the two instructions before stored to the code at PC (20_memory.md R90, U10; assumption log 16). -/
def State.codeJustStored (s : State) : Bool :=
  (s.accessAddresses .half s.pc).any fun a => s.storesPrev.contains a || s.storesPrev2.contains a

/-- Line 4 of 60_exceptions.md R402 up to the execution: the instruction at PC, or why the step stops.
After a delayed branch only the 38 forms of 47_branch.md R327 have a meaning. -/
def State.fetch (s : State) : Except Result Instr :=
  if s.codeJustStored then .error (.fault .fetchOfStoredCode)
  else if (s.touch .half s.pc).debugCtl = .tripped then .error (.fault .debugControlMisset)
  else
    match decode s.fetchCode with
    | .error e => .error (.refused (decodeRefusal e))
    | .ok i =>
      if s.delay.isSome && !i.isDelaySlotForm then .error (.fault .undefinedDelayedInstruction)
      else .ok i

/-- The data break after one more executed instruction: the drawn count goes down by one. -/
def ageDataBreak (before after : Option DataBreak) : Option DataBreak :=
  match before, after with
  | some b, some a =>
    match b.wait with
    | some (n + 1) => some { a with wait := some n }
    | _ => some a
  | _, a => a

/-- A `mac` that did a repeat is not finished: each repeat lowers the counter, and the step that ends the `mac` or takes
the address error does not (43_multiply_divide_mac.md R270). What that means for U10 is the model's choice (assumption
log 33). -/
def unfinished (i : Instr) (before after : State) : Bool :=
  match i with
  | .mac rs => after.reg rs != before.reg rs
  | _ => false

/-- Line 5 of 60_exceptions.md R402, with the ageing of the late traps and of the stored addresses: `before` is the
state in which instruction `i` began and `after` the one its meaning answers. DESIGN CHOICE: the stored addresses age
when an instruction finishes, so a `mac` that is left by a trap between repeats does not age them, and an instruction
that takes the address error exception, a `mac` in any of its repeats included, does (assumption log 33). -/
def State.endOfStep (before : State) (i : Instr) (after : State) : State :=
  { after with
    pc := before.delay.getD after.pc
    delay := if before.delay.isSome then none else after.delay
    retdShadow := if before.retdShadow then false else after.retdShadow
    zdiv := if before.zdiv = .late then .due else after.zdiv
    dbrk := ageDataBreak before.dbrk after.dbrk
    storesNow := []
    storesPrev := if unfinished i before after then before.storesPrev else after.storesNow
    storesPrev2 := if unfinished i before after then before.storesPrev2 else before.storesPrev }

/-- A state in which U6 was tripped is no next state (assumption log 12). -/
def settle (s : State) : Result :=
  if s.debugCtl = .tripped then .fault .debugControlMisset else .next s

/-- The end of an instruction's step. -/
def State.finish (before : State) (i : Instr) (answer : Result) : Result :=
  match answer with
  | .next after => settle (before.endOfStep i after)
  | .fault r => .fault r
  | .refused r => .refused r

end Sys2Proof.Machine
end

