-- ==== Sys2Proof/Machine/Arithmetic.lean ====
section
/-! DEFINITION. The 10 arithmetic instructions (42_arithmetic.md). They write C, V, Z and N, but for the two SP forms (R221). -/

namespace Sys2Proof.Machine

/-- `add %rd,%rs` (42_arithmetic.md R223). -/
def execAddReg (rd rs : Reg) (s : State) : Result :=
  let ab := registerOperands s.ext (s.reg rd) (s.reg rs)
  .next (s.resultArith rd (addFlags ab.1 ab.2 false))

/-- `add %rd,imm6` (42_arithmetic.md R224). -/
def execAddImm (rd : Reg) (imm6 : BitVec 6) (s : State) : Result :=
  .next (s.resultArith rd (addFlags (s.reg rd) (immOperand s.ext imm6) false))

/-- `add %sp,imm10` (42_arithmetic.md R225). -/
def execAddSp (imm10 : BitVec 10) (s : State) : Result :=
  .next { s with sp := s.sp + spImmediate imm10 }.advance

/-- `adc %rd,%rs` (42_arithmetic.md R226). -/
def execAdc (rd rs : Reg) (s : State) : Result :=
  .next (s.resultArith rd (addFlags (s.reg rd) (s.reg rs) (s.psr.getLsbD bitC)))

/-- `sub %rd,%rs` (42_arithmetic.md R227). -/
def execSubReg (rd rs : Reg) (s : State) : Result :=
  let ab := registerOperands s.ext (s.reg rd) (s.reg rs)
  .next (s.resultArith rd (subFlags ab.1 ab.2 false))

/-- `sub %rd,imm6` (42_arithmetic.md R228). -/
def execSubImm (rd : Reg) (imm6 : BitVec 6) (s : State) : Result :=
  .next (s.resultArith rd (subFlags (s.reg rd) (immOperand s.ext imm6) false))

/-- `sub %sp,imm10` (42_arithmetic.md R229). -/
def execSubSp (imm10 : BitVec 10) (s : State) : Result :=
  .next { s with sp := s.sp - spImmediate imm10 }.advance

/-- `sbc %rd,%rs` (42_arithmetic.md R230). -/
def execSbc (rd rs : Reg) (s : State) : Result :=
  .next (s.resultArith rd (subFlags (s.reg rd) (s.reg rs) (s.psr.getLsbD bitC)))

/-- `cmp %rd,%rs`: no register is written (42_arithmetic.md R231). -/
def execCmpReg (rd rs : Reg) (s : State) : Result :=
  let ab := registerOperands s.ext (s.reg rd) (s.reg rs)
  .next { s with psr := withArith s.psr (subFlags ab.1 ab.2 false) }.advance

/-- `cmp %rd,sign6`: no register is written (42_arithmetic.md R232). -/
def execCmpImm (rd : Reg) (sign6 : BitVec 6) (s : State) : Result :=
  .next { s with psr := withArith s.psr (subFlags (s.reg rd) (signOperand s.ext sign6) false) }.advance

end Sys2Proof.Machine
end

