-- ==== Sys2Proof/Machine/BitOperation.lean ====
section
/-! DEFINITION. The 4 bit operations on a memory byte (45_bit_operation.md). -/

namespace Sys2Proof.Machine

/-- The bit `imm3` of a byte as a mask (45_bit_operation.md R300). -/
def bitMask (imm3 : BitVec 3) : Byte := 1#8 <<< imm3.toNat

/-- The read and the write-back of bclr, bset and bnot: two accesses of the same byte (45_bit_operation.md R303). -/
def State.rewriteByte (s : State) (x : Word) (f : Byte → Byte) : State :=
  ((s.noteRead .byte x).store .byte x ((f (s.read8 1 x)).setWidth 32)).advance

/-- `btst [%rb],imm3`: Z is set if the bit is 0 (45_bit_operation.md R305). -/
def execBtst (rb : Reg) (imm3 : BitVec 3) (s : State) : Result :=
  let x := s.indirect rb
  let t := s.noteRead .byte x
  .next { t with psr := withBit t.psr bitZ (!(s.read8 1 x).getLsbD imm3.toNat) }.advance

/-- `bclr [%rb],imm3` (45_bit_operation.md R306). -/
def execBclr (rb : Reg) (imm3 : BitVec 3) (s : State) : Result :=
  .next (s.rewriteByte (s.indirect rb) fun b => b &&& ~~~(bitMask imm3))

/-- `bset [%rb],imm3` (45_bit_operation.md R307). -/
def execBset (rb : Reg) (imm3 : BitVec 3) (s : State) : Result :=
  .next (s.rewriteByte (s.indirect rb) fun b => b ||| bitMask imm3)

/-- `bnot [%rb],imm3` (45_bit_operation.md R308). -/
def execBnot (rb : Reg) (imm3 : BitVec 3) (s : State) : Result :=
  .next (s.rewriteByte (s.indirect rb) fun b => b ^^^ bitMask imm3)

end Sys2Proof.Machine
end

