-- ==== Sys2Proof/Machine/Branch.lean ====
section
/-! DEFINITION. The 34 branch instructions (47_branch.md). -/

namespace Sys2Proof.Machine

/-- The flags as the conditions read them (47_branch.md R321). -/
def State.flagN (s : State) : Bool := s.psr.getLsbD bitN
def State.flagZ (s : State) : Bool := s.psr.getLsbD bitZ
def State.flagV (s : State) : Bool := s.psr.getLsbD bitV
def State.flagC (s : State) : Bool := s.psr.getLsbD bitC

/-- "Greater than", signed: `!Z & !(N ^ V)` (47_branch.md R321). -/
def State.condGt (s : State) : Bool := !s.flagZ && !(s.flagN ^^ s.flagV)

/-- "Greater or equal", signed: `!(N ^ V)` (47_branch.md R321). -/
def State.condGe (s : State) : Bool := !(s.flagN ^^ s.flagV)

/-- "Less than", signed: `N ^ V` (47_branch.md R321). -/
def State.condLt (s : State) : Bool := s.flagN ^^ s.flagV

/-- "Less or equal", signed: `Z | (N ^ V)` (47_branch.md R321). -/
def State.condLe (s : State) : Bool := s.flagZ || (s.flagN ^^ s.flagV)

/-- "Greater than", unsigned: `!Z & !C` (47_branch.md R321). -/
def State.condUgt (s : State) : Bool := !s.flagZ && !s.flagC

/-- "Greater or equal", unsigned: `!C` (47_branch.md R321). -/
def State.condUge (s : State) : Bool := !s.flagC

/-- "Less than", unsigned: `C` (47_branch.md R321). -/
def State.condUlt (s : State) : Bool := s.flagC

/-- "Less or equal", unsigned: `Z | C` (47_branch.md R321). -/
def State.condUle (s : State) : Bool := s.flagZ || s.flagC

/-- "Equal": `Z` (47_branch.md R321). -/
def State.condEq (s : State) : Bool := s.flagZ

/-- "Not equal": `!Z` (47_branch.md R321). -/
def State.condNe (s : State) : Bool := !s.flagZ

/-- `jrgt sign8` (47_branch.md R330). -/
def execJrgt (sign8 : BitVec 8) (s : State) : Result :=
  .next (s.branchIf s.condGt false sign8)

/-- `jrgt.d sign8` (47_branch.md R330). -/
def execJrgtDelayed (sign8 : BitVec 8) (s : State) : Result :=
  .next (s.branchIf s.condGt true sign8)

/-- `jrge sign8` (47_branch.md R331). -/
def execJrge (sign8 : BitVec 8) (s : State) : Result :=
  .next (s.branchIf s.condGe false sign8)

/-- `jrge.d sign8` (47_branch.md R331). -/
def execJrgeDelayed (sign8 : BitVec 8) (s : State) : Result :=
  .next (s.branchIf s.condGe true sign8)

/-- `jrlt sign8` (47_branch.md R332). -/
def execJrlt (sign8 : BitVec 8) (s : State) : Result :=
  .next (s.branchIf s.condLt false sign8)

/-- `jrlt.d sign8` (47_branch.md R332). -/
def execJrltDelayed (sign8 : BitVec 8) (s : State) : Result :=
  .next (s.branchIf s.condLt true sign8)

/-- `jrle sign8` (47_branch.md R333). -/
def execJrle (sign8 : BitVec 8) (s : State) : Result :=
  .next (s.branchIf s.condLe false sign8)

/-- `jrle.d sign8` (47_branch.md R333). -/
def execJrleDelayed (sign8 : BitVec 8) (s : State) : Result :=
  .next (s.branchIf s.condLe true sign8)

/-- `jrugt sign8` (47_branch.md R334). -/
def execJrugt (sign8 : BitVec 8) (s : State) : Result :=
  .next (s.branchIf s.condUgt false sign8)

/-- `jrugt.d sign8` (47_branch.md R334). -/
def execJrugtDelayed (sign8 : BitVec 8) (s : State) : Result :=
  .next (s.branchIf s.condUgt true sign8)

/-- `jruge sign8` (47_branch.md R335). -/
def execJruge (sign8 : BitVec 8) (s : State) : Result :=
  .next (s.branchIf s.condUge false sign8)

/-- `jruge.d sign8` (47_branch.md R335). -/
def execJrugeDelayed (sign8 : BitVec 8) (s : State) : Result :=
  .next (s.branchIf s.condUge true sign8)

/-- `jrult sign8` (47_branch.md R336). -/
def execJrult (sign8 : BitVec 8) (s : State) : Result :=
  .next (s.branchIf s.condUlt false sign8)

/-- `jrult.d sign8` (47_branch.md R336). -/
def execJrultDelayed (sign8 : BitVec 8) (s : State) : Result :=
  .next (s.branchIf s.condUlt true sign8)

/-- `jrule sign8` (47_branch.md R337). -/
def execJrule (sign8 : BitVec 8) (s : State) : Result :=
  .next (s.branchIf s.condUle false sign8)

/-- `jrule.d sign8` (47_branch.md R337). -/
def execJruleDelayed (sign8 : BitVec 8) (s : State) : Result :=
  .next (s.branchIf s.condUle true sign8)

/-- `jreq sign8` (47_branch.md R338). -/
def execJreq (sign8 : BitVec 8) (s : State) : Result :=
  .next (s.branchIf s.condEq false sign8)

/-- `jreq.d sign8` (47_branch.md R338). -/
def execJreqDelayed (sign8 : BitVec 8) (s : State) : Result :=
  .next (s.branchIf s.condEq true sign8)

/-- `jrne sign8` (47_branch.md R339). -/
def execJrne (sign8 : BitVec 8) (s : State) : Result :=
  .next (s.branchIf s.condNe false sign8)

/-- `jrne.d sign8` (47_branch.md R339). -/
def execJrneDelayed (sign8 : BitVec 8) (s : State) : Result :=
  .next (s.branchIf s.condNe true sign8)

/-- `call sign8` (47_branch.md R341). -/
def execCall (sign8 : BitVec 8) (s : State) : Result :=
  .next (s.callTo false (s.target sign8))

/-- `call.d sign8` (47_branch.md R341). -/
def execCallDelayed (sign8 : BitVec 8) (s : State) : Result :=
  .next (s.callTo true (s.target sign8))

/-- `jp sign8` (47_branch.md R340). -/
def execJp (sign8 : BitVec 8) (s : State) : Result :=
  .next (s.branchTo false (s.target sign8))

/-- `jp.d sign8` (47_branch.md R340). -/
def execJpDelayed (sign8 : BitVec 8) (s : State) : Result :=
  .next (s.branchTo true (s.target sign8))

/-- `call %rb` (47_branch.md R345). -/
def execCallReg (rb : Reg) (s : State) : Result :=
  .next (s.callTo false (maskPc (s.reg rb)))

/-- `call.d %rb` (47_branch.md R345). -/
def execCallRegDelayed (rb : Reg) (s : State) : Result :=
  .next (s.callTo true (maskPc (s.reg rb)))

/-- `ret` (47_branch.md R350). -/
def execRet (s : State) : Result :=
  .next (s.returnBy false)

/-- `ret.d` (47_branch.md R350). -/
def execRetDelayed (s : State) : Result :=
  .next (s.returnBy true)

/-- `jp %rb` (47_branch.md R346). -/
def execJpReg (rb : Reg) (s : State) : Result :=
  .next (s.branchTo false (maskPc (s.reg rb)))

/-- `jp.d %rb` (47_branch.md R346). -/
def execJpRegDelayed (rb : Reg) (s : State) : Result :=
  .next (s.branchTo true (maskPc (s.reg rb)))

/-- `brk`: a no-operation in debugging mode (47_branch.md R354). Its two writes and its vector read do not arm the data
break (DESIGN CHOICE, assumption log 15). -/
def execBrk (s : State) : Result :=
  .next (if s.userMode then s.debugEntry (s.pc + 2#32) 0x80#8 0#8 else s.advance)

/-- `retd`: the same in both modes (47_branch.md R352). -/
def execRetd (s : State) : Result :=
  .next s.debugReturn

/-- `int imm2` (47_branch.md R353). -/
def execInt (imm2 : BitVec 2) (s : State) : Result :=
  .next (s.trapEntry .instruction (BitVec.ofNat 32 (48 + 4 * imm2.toNat)) (s.pc + 2#32) none)

/-- `reti` (47_branch.md R351). -/
def execReti (s : State) : Result :=
  .next s.trapReturn

end Sys2Proof.Machine
end

