-- ==== Sys2Proof/Machine/DataTransfer.lean ====
section
/-! DEFINITION. The 32 data transfer instructions (40_data_transfer.md). None changes a flag but `ld.w %psr,%rs`. -/

namespace Sys2Proof.Machine

/-- `ld.b %rd,%rs` (40_data_transfer.md R160). -/
def execLdBReg (rd rs : Reg) (s : State) : Result :=
  let low := (s.reg rs).extractLsb' 0 8
  .next (s.setReg rd (extended true low)).advance

/-- `ld.b %rd,[%rb]` (40_data_transfer.md R161). -/
def execLdBInd (rd rb : Reg) (s : State) : Result :=
  .next (s.loadTo rd .byte true (s.indirect rb))

/-- `ld.b %rd,[%rb]+` (40_data_transfer.md R162). -/
def execLdBPost (rd rb : Reg) (s : State) : Result :=
  .next (s.loadPost rd rb .byte true)

/-- `ld.b %rd,[%sp+imm6]` (40_data_transfer.md R163). -/
def execLdBSp (rd : Reg) (imm6 : BitVec 6) (s : State) : Result :=
  .next (s.loadTo rd .byte true (s.spAddress .byte imm6))

/-- `ld.b [%rb],%rs` (40_data_transfer.md R164). -/
def execStBInd (rb rs : Reg) (s : State) : Result :=
  .next (s.storeFrom rs .byte (s.indirect rb))

/-- `ld.b [%rb]+,%rs` (40_data_transfer.md R165). -/
def execStBPost (rb rs : Reg) (s : State) : Result :=
  .next (s.storePost rb rs .byte)

/-- `ld.b [%sp+imm6],%rs` (40_data_transfer.md R166). -/
def execStBSp (imm6 : BitVec 6) (rs : Reg) (s : State) : Result :=
  .next (s.storeFrom rs .byte (s.spAddress .byte imm6))

/-- `ld.ub %rd,%rs` (40_data_transfer.md R167). -/
def execLdUbReg (rd rs : Reg) (s : State) : Result :=
  let low := (s.reg rs).extractLsb' 0 8
  .next (s.setReg rd (extended false low)).advance

/-- `ld.ub %rd,[%rb]` (40_data_transfer.md R168). -/
def execLdUbInd (rd rb : Reg) (s : State) : Result :=
  .next (s.loadTo rd .byte false (s.indirect rb))

/-- `ld.ub %rd,[%rb]+` (40_data_transfer.md R169). -/
def execLdUbPost (rd rb : Reg) (s : State) : Result :=
  .next (s.loadPost rd rb .byte false)

/-- `ld.ub %rd,[%sp+imm6]` (40_data_transfer.md R170). -/
def execLdUbSp (rd : Reg) (imm6 : BitVec 6) (s : State) : Result :=
  .next (s.loadTo rd .byte false (s.spAddress .byte imm6))

/-- `ld.h %rd,%rs` (40_data_transfer.md R171). -/
def execLdHReg (rd rs : Reg) (s : State) : Result :=
  let low := (s.reg rs).extractLsb' 0 16
  .next (s.setReg rd (extended true low)).advance

/-- `ld.h %rd,[%rb]` (40_data_transfer.md R172). -/
def execLdHInd (rd rb : Reg) (s : State) : Result :=
  .next (s.loadTo rd .half true (s.indirect rb))

/-- `ld.h %rd,[%rb]+` (40_data_transfer.md R173). -/
def execLdHPost (rd rb : Reg) (s : State) : Result :=
  .next (s.loadPost rd rb .half true)

/-- `ld.h %rd,[%sp+imm6]` (40_data_transfer.md R174). -/
def execLdHSp (rd : Reg) (imm6 : BitVec 6) (s : State) : Result :=
  .next (s.loadTo rd .half true (s.spAddress .half imm6))

/-- `ld.h [%rb],%rs` (40_data_transfer.md R175). -/
def execStHInd (rb rs : Reg) (s : State) : Result :=
  .next (s.storeFrom rs .half (s.indirect rb))

/-- `ld.h [%rb]+,%rs` (40_data_transfer.md R176). -/
def execStHPost (rb rs : Reg) (s : State) : Result :=
  .next (s.storePost rb rs .half)

/-- `ld.h [%sp+imm6],%rs` (40_data_transfer.md R177). -/
def execStHSp (imm6 : BitVec 6) (rs : Reg) (s : State) : Result :=
  .next (s.storeFrom rs .half (s.spAddress .half imm6))

/-- `ld.uh %rd,%rs` (40_data_transfer.md R178). -/
def execLdUhReg (rd rs : Reg) (s : State) : Result :=
  let low := (s.reg rs).extractLsb' 0 16
  .next (s.setReg rd (extended false low)).advance

/-- `ld.uh %rd,[%rb]` (40_data_transfer.md R179). -/
def execLdUhInd (rd rb : Reg) (s : State) : Result :=
  .next (s.loadTo rd .half false (s.indirect rb))

/-- `ld.uh %rd,[%rb]+` (40_data_transfer.md R180). -/
def execLdUhPost (rd rb : Reg) (s : State) : Result :=
  .next (s.loadPost rd rb .half false)

/-- `ld.uh %rd,[%sp+imm6]` (40_data_transfer.md R181). -/
def execLdUhSp (rd : Reg) (imm6 : BitVec 6) (s : State) : Result :=
  .next (s.loadTo rd .half false (s.spAddress .half imm6))

/-- `ld.w %rd,%rs` (40_data_transfer.md R182). -/
def execLdWReg (rd rs : Reg) (s : State) : Result :=
  .next (s.setReg rd (s.reg rs)).advance

/-- `ld.w %sd,%rs`: writing SP arms the NMI, and ALR and AHR exist only with the multiplier (40_data_transfer.md R183). -/
def execLdWToSpecial (sd : SpecialReg) (rs : Reg) (s : State) : Result :=
  match sd with
  | .psr => .next { s with psr := s.reg rs &&& psrMask }.advance
  | .sp => .next { s with sp := maskSp (s.reg rs), nmiArmed := true }.advance
  | .alr => .next (if s.cfg.hasMultiplier then { s with alr := s.reg rs }.advance else s.advance)
  | .ahr => .next (if s.cfg.hasMultiplier then { s with ahr := s.reg rs }.advance else s.advance)

/-- `ld.w %rd,%ss`: ALR and AHR exist only with the multiplier (40_data_transfer.md R184). -/
def execLdWFromSpecial (rd : Reg) (ss : SpecialReg) (s : State) : Result :=
  match ss with
  | .psr => .next (s.setReg rd s.psr).advance
  | .sp => .next (s.setReg rd s.sp).advance
  | .alr => .next (if s.cfg.hasMultiplier then (s.setReg rd s.alr).advance else s.advance)
  | .ahr => .next (if s.cfg.hasMultiplier then (s.setReg rd s.ahr).advance else s.advance)

/-- `ld.w %rd,sign6` (40_data_transfer.md R185). -/
def execLdWImm (rd : Reg) (sign6 : BitVec 6) (s : State) : Result :=
  .next (s.setReg rd (signOperand s.ext sign6)).advance

/-- `ld.w %rd,[%rb]` (40_data_transfer.md R186). -/
def execLdWInd (rd rb : Reg) (s : State) : Result :=
  .next (s.loadTo rd .word false (s.indirect rb))

/-- `ld.w %rd,[%rb]+` (40_data_transfer.md R187). -/
def execLdWPost (rd rb : Reg) (s : State) : Result :=
  .next (s.loadPost rd rb .word false)

/-- `ld.w %rd,[%sp+imm6]` (40_data_transfer.md R188). -/
def execLdWSp (rd : Reg) (imm6 : BitVec 6) (s : State) : Result :=
  .next (s.loadTo rd .word false (s.spAddress .word imm6))

/-- `ld.w [%rb],%rs` (40_data_transfer.md R189). -/
def execStWInd (rb rs : Reg) (s : State) : Result :=
  .next (s.storeFrom rs .word (s.indirect rb))

/-- `ld.w [%rb]+,%rs` (40_data_transfer.md R190). -/
def execStWPost (rb rs : Reg) (s : State) : Result :=
  .next (s.storePost rb rs .word)

/-- `ld.w [%sp+imm6],%rs` (40_data_transfer.md R191). -/
def execStWSp (imm6 : BitVec 6) (rs : Reg) (s : State) : Result :=
  .next (s.storeFrom rs .word (s.spAddress .word imm6))

end Sys2Proof.Machine
end

