-- ==== Sys2Proof/Machine/Logic.lean ====
section
/-! DEFINITION. The 8 logic instructions (41_logic.md). They write Z and N and no other flag (R201). -/

namespace Sys2Proof.Machine

/-- `and %rd,%rs` (41_logic.md R203). -/
def execAndReg (rd rs : Reg) (s : State) : Result :=
  let ab := registerOperands s.ext (s.reg rd) (s.reg rs)
  .next (s.resultZN rd (ab.1 &&& ab.2))

/-- `and %rd,sign6` (41_logic.md R204). -/
def execAndImm (rd : Reg) (sign6 : BitVec 6) (s : State) : Result :=
  .next (s.resultZN rd (s.reg rd &&& signOperand s.ext sign6))

/-- `or %rd,%rs` (41_logic.md R205). -/
def execOrReg (rd rs : Reg) (s : State) : Result :=
  let ab := registerOperands s.ext (s.reg rd) (s.reg rs)
  .next (s.resultZN rd (ab.1 ||| ab.2))

/-- `or %rd,sign6` (41_logic.md R206). -/
def execOrImm (rd : Reg) (sign6 : BitVec 6) (s : State) : Result :=
  .next (s.resultZN rd (s.reg rd ||| signOperand s.ext sign6))

/-- `xor %rd,%rs` (41_logic.md R207). -/
def execXorReg (rd rs : Reg) (s : State) : Result :=
  let ab := registerOperands s.ext (s.reg rd) (s.reg rs)
  .next (s.resultZN rd (ab.1 ^^^ ab.2))

/-- `xor %rd,sign6` (41_logic.md R208). -/
def execXorImm (rd : Reg) (sign6 : BitVec 6) (s : State) : Result :=
  .next (s.resultZN rd (s.reg rd ^^^ signOperand s.ext sign6))

/-- `not %rd,%rs` (41_logic.md R209). -/
def execNotReg (rd rs : Reg) (s : State) : Result :=
  .next (s.resultZN rd (~~~(s.reg rs)))

/-- `not %rd,sign6` (41_logic.md R210). -/
def execNotImm (rd : Reg) (sign6 : BitVec 6) (s : State) : Result :=
  .next (s.resultZN rd (~~~(signOperand s.ext sign6)))

end Sys2Proof.Machine
end

