-- ==== Sys2Proof/Machine/Alu.lean ====
section
/-! DEFINITION. The data operations that are more than one word operation: shift counts and shifts (44_shift_rotate.md), scan, swap and mirror (48_system_ext_misc.md), multiplication and the division step (43_multiply_divide_mac.md). -/

namespace Sys2Proof.Machine

/-- `Count(x4)`: 8 if bit 3 is set, else the low three bits (44_shift_rotate.md R281). -/
def shiftCount (x4 : BitVec 4) : Nat :=
  if x4.getLsbD 3 then 8 else (x4.extractLsb' 0 3).toNat

/-- `Srl(v, n)` (44_shift_rotate.md R283). -/
def srl (v : Word) (n : Nat) : Word := v >>> n

/-- `Sll(v, n)` (44_shift_rotate.md R283). -/
def sll (v : Word) (n : Nat) : Word := v <<< n

/-- `Sra(v, n)` (44_shift_rotate.md R283). -/
def sra (v : Word) (n : Nat) : Word := v.sshiftRight n

/-- `Sla(v, n)`, the same as `Sll` (44_shift_rotate.md R283, R290). -/
def sla (v : Word) (n : Nat) : Word := v <<< n

/-- `Rr(v, n)` (44_shift_rotate.md R283). -/
def rr (v : Word) (n : Nat) : Word := v.rotateRight n

/-- `Rl(v, n)` (44_shift_rotate.md R283). -/
def rl (v : Word) (n : Nat) : Word := v.rotateLeft n

/-- The least k in 0 to 7 with bit 7 - k of bits 31:24 equal to `bit`, or 8 (48_system_ext_misc.md R381, R382). -/
def scanOffset (bit : Bool) (v : Word) : Nat :=
  ((List.range 8).find? fun k => v.getLsbD (31 - k) == bit).getD 8

/-- The byte order reversed (48_system_ext_misc.md R390). -/
def swapBytes (v : Word) : Word :=
  v.extractLsb' 0 8 ++ v.extractLsb' 8 8 ++ v.extractLsb' 16 8 ++ v.extractLsb' 24 8

/-- The bits of each byte reversed, the bytes in place (48_system_ext_misc.md R391). -/
def mirrorBytes (v : Word) : Word :=
  (v.extractLsb' 24 8).reverse ++ (v.extractLsb' 16 8).reverse ++ (v.extractLsb' 8 8).reverse
    ++ (v.extractLsb' 0 8).reverse

/-- The signed product of the low half words (43_multiply_divide_mac.md R253). -/
def mulSigned16 (a b : Word) : Word :=
  BitVec.ofInt 32 ((a.extractLsb' 0 16).toInt * (b.extractLsb' 0 16).toInt)

/-- The unsigned product of the low half words (43_multiply_divide_mac.md R254). -/
def mulUnsigned16 (a b : Word) : Word :=
  BitVec.ofNat 32 ((a.extractLsb' 0 16).toNat * (b.extractLsb' 0 16).toNat)

/-- The signed 64-bit product (43_multiply_divide_mac.md R255). -/
def mulSigned32 (a b : Word) : BitVec 64 :=
  BitVec.ofInt 64 (a.toInt * b.toInt)

/-- The unsigned 64-bit product (43_multiply_divide_mac.md R256). -/
def mulUnsigned32 (a b : Word) : BitVec 64 :=
  BitVec.ofNat 64 (a.toNat * b.toNat)

/-- One division step on (AHR, ALR) with the flags DS and N (43_multiply_divide_mac.md R260). -/
def divisionStep (ds n : Bool) (divisor ahr alr : Word) : Word × Word :=
  let ahr1 : Word := ahr.extractLsb' 0 31 ++ alr.extractLsb' 31 1
  let alr1 : Word := alr.extractLsb' 0 31 ++ 0#1
  let a : BitVec 33 := BitVec.ofBool ds ++ ahr1
  let b : BitVec 33 := BitVec.ofBool n ++ divisor
  let tmp := if ds = n then a - b else a + b
  if tmp.getLsbD 32 = ds then (tmp.extractLsb' 0 32, alr1 ||| 1#32) else (ahr1, alr1)

/-- The first correction of a signed division, on (AHR, ALR) (43_multiply_divide_mac.md R261). -/
def divisionCorrection (ds n : Bool) (divisor ahr alr : Word) : Word × Word :=
  let tmp := if n then ahr - divisor else ahr + divisor
  if ds ∧ tmp = 0#32 then (0#32, alr + 1#32) else (ahr, alr)

end Sys2Proof.Machine
end

