-- ==== Sys2Proof/Machine/MulDivMac.lean ====
section
/-! DEFINITION. The 10 instructions of the optional multiplier (43_multiply_divide_mac.md). Without it each is a `nop` (R250). -/

namespace Sys2Proof.Machine

/-- A 64-bit result goes to the pair AHR, ALR (43_multiply_divide_mac.md R255). -/
def State.setAccumulator (s : State) (v : BitVec 64) : State :=
  { s with ahr := v.extractLsb' 32 32, alr := v.extractLsb' 0 32 }

/-- A zero divisor raises the zero division exception; one that is already pending stays as it is
(60_exceptions.md R420; assumption log 14). -/
def State.raiseZeroDivision (s : State) (divisor : Word) : State :=
  if divisor = 0#32 ∧ s.zdiv = .none then { s with zdiv := .raised } else s

/-- `mlt.h %rd,%rs`: AHR is unchanged (43_multiply_divide_mac.md R253). -/
def execMltH (rd rs : Reg) (s : State) : Result :=
  .next (if s.cfg.hasMultiplier then { s with alr := mulSigned16 (s.reg rd) (s.reg rs) }.advance
    else s.advance)

/-- `mltu.h %rd,%rs`: AHR is unchanged (43_multiply_divide_mac.md R254). -/
def execMltuH (rd rs : Reg) (s : State) : Result :=
  .next (if s.cfg.hasMultiplier then { s with alr := mulUnsigned16 (s.reg rd) (s.reg rs) }.advance
    else s.advance)

/-- `mlt.w %rd,%rs` (43_multiply_divide_mac.md R255). -/
def execMltW (rd rs : Reg) (s : State) : Result :=
  .next (if s.cfg.hasMultiplier then (s.setAccumulator (mulSigned32 (s.reg rd) (s.reg rs))).advance
    else s.advance)

/-- `mltu.w %rd,%rs` (43_multiply_divide_mac.md R256). -/
def execMltuW (rd rs : Reg) (s : State) : Result :=
  .next (if s.cfg.hasMultiplier then (s.setAccumulator (mulUnsigned32 (s.reg rd) (s.reg rs))).advance
    else s.advance)

/-- `div0s %rs`: the writes happen before the zero division is raised (43_multiply_divide_mac.md R258). -/
def execDiv0s (rs : Reg) (s : State) : Result :=
  if s.cfg.hasMultiplier then
    let t : State :=
      { s with
        ahr := if s.alr.msb then 0xFFFFFFFF#32 else 0#32
        psr := withBit (withBit s.psr bitDS s.alr.msb) bitN (s.reg rs).msb }
    .next (t.raiseZeroDivision (s.reg rs)).advance
  else .next s.advance

/-- `div0u %rs`: the writes happen before the zero division is raised (43_multiply_divide_mac.md R259). -/
def execDiv0u (rs : Reg) (s : State) : Result :=
  if s.cfg.hasMultiplier then
    let t : State := { s with ahr := 0#32, psr := withBit (withBit s.psr bitDS false) bitN false }
    .next (t.raiseZeroDivision (s.reg rs)).advance
  else .next s.advance

/-- `div1 %rs` (43_multiply_divide_mac.md R260). -/
def execDiv1 (rs : Reg) (s : State) : Result :=
  if s.cfg.hasMultiplier then
    let r := divisionStep (s.psr.getLsbD bitDS) (s.psr.getLsbD bitN) (s.reg rs) s.ahr s.alr
    .next { s with ahr := r.1, alr := r.2 }.advance
  else .next s.advance

/-- `div2s %rs` (43_multiply_divide_mac.md R261). -/
def execDiv2s (rs : Reg) (s : State) : Result :=
  if s.cfg.hasMultiplier then
    let r := divisionCorrection (s.psr.getLsbD bitDS) (s.psr.getLsbD bitN) (s.reg rs) s.ahr s.alr
    .next { s with ahr := r.1, alr := r.2 }.advance
  else .next s.advance

/-- `div3s`: the quotient is negated (43_multiply_divide_mac.md R262). -/
def execDiv3s (_ignored : BitVec 4) (s : State) : Result :=
  if s.cfg.hasMultiplier ∧ s.psr.getLsbD bitDS ≠ s.psr.getLsbD bitN then
    .next { s with alr := -s.alr }.advance
  else .next s.advance

/-- One repeat of `mac` on aligned pointers, the first factor read first (43_multiply_divide_mac.md R270, R271).
PC stays at the `mac`, and a pending `ext` stays until the `mac` completes (10_state.md R50). -/
def State.macRepeat (s : State) (rs : Reg) : State :=
  let p1 := nextReg rs 1
  let p2 := nextReg rs 2
  let product := (s.read16 1 (s.reg p1)).toInt * (s.read16 2 (s.reg p2)).toInt
  let acc := (s.ahr ++ s.alr).toInt + product
  let t := ((s.noteRead .half (s.reg p1)).noteRead .half (s.reg p2)).setAccumulator (BitVec.ofInt 64 acc)
  let t :=
    if acc < -2 ^ 63 ∨ 2 ^ 63 ≤ acc then { t with psr := withBit t.psr bitMO true } else t
  ((t.setReg p1 (s.reg p1 + 2#32)).setReg p2 (s.reg p2 + 2#32)).setReg rs (s.reg rs - 1#32)

/-- `mac %rs`: one repeat; PC advances when the counter is 0 (43_multiply_divide_mac.md R270). A pending `ext` becomes
none with that last step, when the instruction completes, or with the address error, so its trap mask covers every
repeat (10_state.md R50, 30_encoding.md R127, 60_exceptions.md R406 (1), R423; assumption log 32). -/
def execMac (rs : Reg) (s : State) : Result :=
  if !s.cfg.hasMultiplier || s.reg rs == 0#32 then .next s.advance
  else if misaligned .half (s.reg (nextReg rs 1)) || misaligned .half (s.reg (nextReg rs 2)) then
    .next s.addressError
  else .next (s.macRepeat rs)

end Sys2Proof.Machine
end

