-- ==== Sys2Proof/Machine/PushPop.lean ====
section
/-! DEFINITION. pushn and popn (46_push_pop.md). -/

namespace Sys2Proof.Machine

/-- Push the registers `count - 1` down to R0 (46_push_pop.md R312). -/
def State.pushRegs (s : State) : Nat → State
  | 0 => s
  | k + 1 => State.pushRegs (s.push .instruction (s.reg (Fin.ofNat 16 k))) k

/-- Pop R0 up to register `count - 1` (46_push_pop.md R313). -/
def State.popRegs (s : State) : Nat → State
  | 0 => s
  | k + 1 =>
    let t := State.popRegs s k
    t.pop.setReg (Fin.ofNat 16 k) (t.top (1 + k))

/-- `pushn %rs` (46_push_pop.md R312). -/
def execPushn (rs : Reg) (s : State) : Result :=
  .next (s.pushRegs (rs.val + 1)).advance

/-- `popn %rd` (46_push_pop.md R313). -/
def execPopn (rd : Reg) (s : State) : Result :=
  .next (s.popRegs (rd.val + 1)).advance

end Sys2Proof.Machine
end

