-- ==== Sys2Proof/Machine/ShiftRotate.lean ====
section
/-! DEFINITION. The 12 shift and rotation instructions (44_shift_rotate.md). They write Z and N and no other flag (R282). -/

namespace Sys2Proof.Machine

/-- `srl %rd,imm4` (44_shift_rotate.md R284). -/
def execSrlImm (rd : Reg) (imm4 : BitVec 4) (s : State) : Result :=
  .next (s.resultZN rd (srl (s.reg rd) (shiftCount imm4)))

/-- `srl %rd,%rs` (44_shift_rotate.md R285). -/
def execSrlReg (rd rs : Reg) (s : State) : Result :=
  .next (s.resultZN rd (srl (s.reg rd) (shiftCount ((s.reg rs).extractLsb' 0 4))))

/-- `sll %rd,imm4` (44_shift_rotate.md R286). -/
def execSllImm (rd : Reg) (imm4 : BitVec 4) (s : State) : Result :=
  .next (s.resultZN rd (sll (s.reg rd) (shiftCount imm4)))

/-- `sll %rd,%rs` (44_shift_rotate.md R287). -/
def execSllReg (rd rs : Reg) (s : State) : Result :=
  .next (s.resultZN rd (sll (s.reg rd) (shiftCount ((s.reg rs).extractLsb' 0 4))))

/-- `sra %rd,imm4` (44_shift_rotate.md R288). -/
def execSraImm (rd : Reg) (imm4 : BitVec 4) (s : State) : Result :=
  .next (s.resultZN rd (sra (s.reg rd) (shiftCount imm4)))

/-- `sra %rd,%rs` (44_shift_rotate.md R289). -/
def execSraReg (rd rs : Reg) (s : State) : Result :=
  .next (s.resultZN rd (sra (s.reg rd) (shiftCount ((s.reg rs).extractLsb' 0 4))))

/-- `sla %rd,imm4` (44_shift_rotate.md R290). -/
def execSlaImm (rd : Reg) (imm4 : BitVec 4) (s : State) : Result :=
  .next (s.resultZN rd (sla (s.reg rd) (shiftCount imm4)))

/-- `sla %rd,%rs` (44_shift_rotate.md R291). -/
def execSlaReg (rd rs : Reg) (s : State) : Result :=
  .next (s.resultZN rd (sla (s.reg rd) (shiftCount ((s.reg rs).extractLsb' 0 4))))

/-- `rr %rd,imm4` (44_shift_rotate.md R292). -/
def execRrImm (rd : Reg) (imm4 : BitVec 4) (s : State) : Result :=
  .next (s.resultZN rd (rr (s.reg rd) (shiftCount imm4)))

/-- `rr %rd,%rs` (44_shift_rotate.md R293). -/
def execRrReg (rd rs : Reg) (s : State) : Result :=
  .next (s.resultZN rd (rr (s.reg rd) (shiftCount ((s.reg rs).extractLsb' 0 4))))

/-- `rl %rd,imm4` (44_shift_rotate.md R294). -/
def execRlImm (rd : Reg) (imm4 : BitVec 4) (s : State) : Result :=
  .next (s.resultZN rd (rl (s.reg rd) (shiftCount imm4)))

/-- `rl %rd,%rs` (44_shift_rotate.md R295). -/
def execRlReg (rd rs : Reg) (s : State) : Result :=
  .next (s.resultZN rd (rl (s.reg rd) (shiftCount ((s.reg rs).extractLsb' 0 4))))

end Sys2Proof.Machine
end

