-- ==== Sys2Proof/Machine/SystemMisc.lean ====
section
/-! DEFINITION. nop, slp, halt, ext, scan0, scan1, swap and mirror (48_system_ext_misc.md). -/

namespace Sys2Proof.Machine

/-- `nop` (48_system_ext_misc.md R371). -/
def execNop (s : State) : Result :=
  .next s.advance

/-- `slp` (48_system_ext_misc.md R373). -/
def execSlp (s : State) : Result :=
  .next { s with run := .sleeping }.advance

/-- `halt` (48_system_ext_misc.md R372). -/
def execHalt (s : State) : Result :=
  .next { s with run := .halted }.advance

/-- `ext imm13` (48_system_ext_misc.md R375). -/
def execExt (imm13 : BitVec 13) (s : State) : Result :=
  .next { s with ext := s.ext.extend imm13, pc := s.pc + 2#32 }

/-- The offset a scan found goes to rd with its flags (48_system_ext_misc.md R380). -/
def State.resultScan (s : State) (rd : Reg) (offset : Nat) : State :=
  ({ s with psr := withScan s.psr offset }.setReg rd (BitVec.ofNat 32 offset)).advance

/-- `scan0 %rd,%rs` (48_system_ext_misc.md R381). -/
def execScan0 (rd rs : Reg) (s : State) : Result :=
  .next (s.resultScan rd (scanOffset false (s.reg rs)))

/-- `scan1 %rd,%rs` (48_system_ext_misc.md R382). -/
def execScan1 (rd rs : Reg) (s : State) : Result :=
  .next (s.resultScan rd (scanOffset true (s.reg rs)))

/-- `swap %rd,%rs` (48_system_ext_misc.md R390). -/
def execSwap (rd rs : Reg) (s : State) : Result :=
  .next (s.setReg rd (swapBytes (s.reg rs))).advance

/-- `mirror %rd,%rs` (48_system_ext_misc.md R391). -/
def execMirror (rd rs : Reg) (s : State) : Result :=
  .next (s.setReg rd (mirrorBytes (s.reg rs))).advance

end Sys2Proof.Machine
end

