-- ==== Sys2Proof/Machine/Dispatch.lean ====
section
/-! DEFINITION. The meaning of every instruction, one arm each. -/

namespace Sys2Proof.Machine

def exec (i : Instr) (s : State) : Host.Outcome State Fault Refusal :=
  match i with
  | .ldBReg rd rs => Sys2Proof.Machine.execLdBReg rd rs s
  | .ldBInd rd rb => Sys2Proof.Machine.execLdBInd rd rb s
  | .ldBPost rd rb => Sys2Proof.Machine.execLdBPost rd rb s
  | .ldBSp rd imm6 => Sys2Proof.Machine.execLdBSp rd imm6 s
  | .stBInd rb rs => Sys2Proof.Machine.execStBInd rb rs s
  | .stBPost rb rs => Sys2Proof.Machine.execStBPost rb rs s
  | .stBSp imm6 rs => Sys2Proof.Machine.execStBSp imm6 rs s
  | .ldUbReg rd rs => Sys2Proof.Machine.execLdUbReg rd rs s
  | .ldUbInd rd rb => Sys2Proof.Machine.execLdUbInd rd rb s
  | .ldUbPost rd rb => Sys2Proof.Machine.execLdUbPost rd rb s
  | .ldUbSp rd imm6 => Sys2Proof.Machine.execLdUbSp rd imm6 s
  | .ldHReg rd rs => Sys2Proof.Machine.execLdHReg rd rs s
  | .ldHInd rd rb => Sys2Proof.Machine.execLdHInd rd rb s
  | .ldHPost rd rb => Sys2Proof.Machine.execLdHPost rd rb s
  | .ldHSp rd imm6 => Sys2Proof.Machine.execLdHSp rd imm6 s
  | .stHInd rb rs => Sys2Proof.Machine.execStHInd rb rs s
  | .stHPost rb rs => Sys2Proof.Machine.execStHPost rb rs s
  | .stHSp imm6 rs => Sys2Proof.Machine.execStHSp imm6 rs s
  | .ldUhReg rd rs => Sys2Proof.Machine.execLdUhReg rd rs s
  | .ldUhInd rd rb => Sys2Proof.Machine.execLdUhInd rd rb s
  | .ldUhPost rd rb => Sys2Proof.Machine.execLdUhPost rd rb s
  | .ldUhSp rd imm6 => Sys2Proof.Machine.execLdUhSp rd imm6 s
  | .ldWReg rd rs => Sys2Proof.Machine.execLdWReg rd rs s
  | .ldWToSpecial sd rs => Sys2Proof.Machine.execLdWToSpecial sd rs s
  | .ldWFromSpecial rd ss => Sys2Proof.Machine.execLdWFromSpecial rd ss s
  | .ldWImm rd sign6 => Sys2Proof.Machine.execLdWImm rd sign6 s
  | .ldWInd rd rb => Sys2Proof.Machine.execLdWInd rd rb s
  | .ldWPost rd rb => Sys2Proof.Machine.execLdWPost rd rb s
  | .ldWSp rd imm6 => Sys2Proof.Machine.execLdWSp rd imm6 s
  | .stWInd rb rs => Sys2Proof.Machine.execStWInd rb rs s
  | .stWPost rb rs => Sys2Proof.Machine.execStWPost rb rs s
  | .stWSp imm6 rs => Sys2Proof.Machine.execStWSp imm6 rs s
  | .andReg rd rs => Sys2Proof.Machine.execAndReg rd rs s
  | .andImm rd sign6 => Sys2Proof.Machine.execAndImm rd sign6 s
  | .orReg rd rs => Sys2Proof.Machine.execOrReg rd rs s
  | .orImm rd sign6 => Sys2Proof.Machine.execOrImm rd sign6 s
  | .xorReg rd rs => Sys2Proof.Machine.execXorReg rd rs s
  | .xorImm rd sign6 => Sys2Proof.Machine.execXorImm rd sign6 s
  | .notReg rd rs => Sys2Proof.Machine.execNotReg rd rs s
  | .notImm rd sign6 => Sys2Proof.Machine.execNotImm rd sign6 s
  | .addReg rd rs => Sys2Proof.Machine.execAddReg rd rs s
  | .addImm rd imm6 => Sys2Proof.Machine.execAddImm rd imm6 s
  | .addSp imm10 => Sys2Proof.Machine.execAddSp imm10 s
  | .adc rd rs => Sys2Proof.Machine.execAdc rd rs s
  | .subReg rd rs => Sys2Proof.Machine.execSubReg rd rs s
  | .subImm rd imm6 => Sys2Proof.Machine.execSubImm rd imm6 s
  | .subSp imm10 => Sys2Proof.Machine.execSubSp imm10 s
  | .sbc rd rs => Sys2Proof.Machine.execSbc rd rs s
  | .cmpReg rd rs => Sys2Proof.Machine.execCmpReg rd rs s
  | .cmpImm rd sign6 => Sys2Proof.Machine.execCmpImm rd sign6 s
  | .mltH rd rs => Sys2Proof.Machine.execMltH rd rs s
  | .mltuH rd rs => Sys2Proof.Machine.execMltuH rd rs s
  | .mltW rd rs => Sys2Proof.Machine.execMltW rd rs s
  | .mltuW rd rs => Sys2Proof.Machine.execMltuW rd rs s
  | .div0s rs => Sys2Proof.Machine.execDiv0s rs s
  | .div0u rs => Sys2Proof.Machine.execDiv0u rs s
  | .div1 rs => Sys2Proof.Machine.execDiv1 rs s
  | .div2s rs => Sys2Proof.Machine.execDiv2s rs s
  | .div3s ignored => Sys2Proof.Machine.execDiv3s ignored s
  | .mac rs => Sys2Proof.Machine.execMac rs s
  | .srlImm rd imm4 => Sys2Proof.Machine.execSrlImm rd imm4 s
  | .srlReg rd rs => Sys2Proof.Machine.execSrlReg rd rs s
  | .sllImm rd imm4 => Sys2Proof.Machine.execSllImm rd imm4 s
  | .sllReg rd rs => Sys2Proof.Machine.execSllReg rd rs s
  | .sraImm rd imm4 => Sys2Proof.Machine.execSraImm rd imm4 s
  | .sraReg rd rs => Sys2Proof.Machine.execSraReg rd rs s
  | .slaImm rd imm4 => Sys2Proof.Machine.execSlaImm rd imm4 s
  | .slaReg rd rs => Sys2Proof.Machine.execSlaReg rd rs s
  | .rrImm rd imm4 => Sys2Proof.Machine.execRrImm rd imm4 s
  | .rrReg rd rs => Sys2Proof.Machine.execRrReg rd rs s
  | .rlImm rd imm4 => Sys2Proof.Machine.execRlImm rd imm4 s
  | .rlReg rd rs => Sys2Proof.Machine.execRlReg rd rs s
  | .btst rb imm3 => Sys2Proof.Machine.execBtst rb imm3 s
  | .bclr rb imm3 => Sys2Proof.Machine.execBclr rb imm3 s
  | .bset rb imm3 => Sys2Proof.Machine.execBset rb imm3 s
  | .bnot rb imm3 => Sys2Proof.Machine.execBnot rb imm3 s
  | .pushn rs => Sys2Proof.Machine.execPushn rs s
  | .popn rd => Sys2Proof.Machine.execPopn rd s
  | .jrgt sign8 => Sys2Proof.Machine.execJrgt sign8 s
  | .jrgtDelayed sign8 => Sys2Proof.Machine.execJrgtDelayed sign8 s
  | .jrge sign8 => Sys2Proof.Machine.execJrge sign8 s
  | .jrgeDelayed sign8 => Sys2Proof.Machine.execJrgeDelayed sign8 s
  | .jrlt sign8 => Sys2Proof.Machine.execJrlt sign8 s
  | .jrltDelayed sign8 => Sys2Proof.Machine.execJrltDelayed sign8 s
  | .jrle sign8 => Sys2Proof.Machine.execJrle sign8 s
  | .jrleDelayed sign8 => Sys2Proof.Machine.execJrleDelayed sign8 s
  | .jrugt sign8 => Sys2Proof.Machine.execJrugt sign8 s
  | .jrugtDelayed sign8 => Sys2Proof.Machine.execJrugtDelayed sign8 s
  | .jruge sign8 => Sys2Proof.Machine.execJruge sign8 s
  | .jrugeDelayed sign8 => Sys2Proof.Machine.execJrugeDelayed sign8 s
  | .jrult sign8 => Sys2Proof.Machine.execJrult sign8 s
  | .jrultDelayed sign8 => Sys2Proof.Machine.execJrultDelayed sign8 s
  | .jrule sign8 => Sys2Proof.Machine.execJrule sign8 s
  | .jruleDelayed sign8 => Sys2Proof.Machine.execJruleDelayed sign8 s
  | .jreq sign8 => Sys2Proof.Machine.execJreq sign8 s
  | .jreqDelayed sign8 => Sys2Proof.Machine.execJreqDelayed sign8 s
  | .jrne sign8 => Sys2Proof.Machine.execJrne sign8 s
  | .jrneDelayed sign8 => Sys2Proof.Machine.execJrneDelayed sign8 s
  | .call sign8 => Sys2Proof.Machine.execCall sign8 s
  | .callDelayed sign8 => Sys2Proof.Machine.execCallDelayed sign8 s
  | .jp sign8 => Sys2Proof.Machine.execJp sign8 s
  | .jpDelayed sign8 => Sys2Proof.Machine.execJpDelayed sign8 s
  | .callReg rb => Sys2Proof.Machine.execCallReg rb s
  | .callRegDelayed rb => Sys2Proof.Machine.execCallRegDelayed rb s
  | .ret => Sys2Proof.Machine.execRet s
  | .retDelayed => Sys2Proof.Machine.execRetDelayed s
  | .jpReg rb => Sys2Proof.Machine.execJpReg rb s
  | .jpRegDelayed rb => Sys2Proof.Machine.execJpRegDelayed rb s
  | .brk => Sys2Proof.Machine.execBrk s
  | .retd => Sys2Proof.Machine.execRetd s
  | .int imm2 => Sys2Proof.Machine.execInt imm2 s
  | .reti => Sys2Proof.Machine.execReti s
  | .nop => Sys2Proof.Machine.execNop s
  | .slp => Sys2Proof.Machine.execSlp s
  | .halt => Sys2Proof.Machine.execHalt s
  | .ext imm13 => Sys2Proof.Machine.execExt imm13 s
  | .scan0 rd rs => Sys2Proof.Machine.execScan0 rd rs s
  | .scan1 rd rs => Sys2Proof.Machine.execScan1 rd rs s
  | .swap rd rs => Sys2Proof.Machine.execSwap rd rs s
  | .mirror rd rs => Sys2Proof.Machine.execMirror rd rs s

end Sys2Proof.Machine
end

