-- ==== Sys2Proof/Machine/Step.lean ====
section
/-! DEFINITION. One step of the machine (60_exceptions.md R402), from the named parts of Machine/Boundary.lean. -/

namespace Sys2Proof.Machine

/-- Lines 2 to 5 of 60_exceptions.md R402 with the interrupt request `irq`: a trap of the boundary is the whole
step, a powered-down core does nothing, else the instruction at PC is fetched and executed. -/
def State.runBoundary (s : State) (irq : Option IrqRequest) : Result :=
  match s.boundary irq with
  | .taken t => settle t
  | .passed t =>
    if t.run = .running then
      match t.fetch with
      | .error answer => answer
      | .ok i => t.finish i (exec i t)
    else .next t

/-- Lines 0 and 1 of 60_exceptions.md R402 with the input `i`: reset first, then bus release. -/
def State.runInput (s : State) (i : Input) : Result :=
  if impossibleRequest s.cfg i.irq then .refused .impossibleInterruptNumber
  else
    match i.reset with
    | some kind => .next (s.resetProcessing kind)
    | none =>
      let t := s.latch i
      if t.busReleased then .next (t.masterWrites i.busWrites) else t.runBoundary i.irq

/-- One step: the next input is taken and the step runs with it. -/
def step (s : State) : Host.Outcome State Fault Refusal :=
  s.begun.runInput s.nextInput

/-- `s` with the instruction whose bits are `w` stored where the next step fetches: the two bytes at PC, low byte
first. -/
def State.withFetchWord (s : State) (nbits w : Nat) : State :=
  let bits := w % 2 ^ nbits
  { s with
    mem :=
      Memory.write (Memory.write s.mem (s.byteAddress s.pc 0) (BitVec.ofNat 8 bits))
        (s.byteAddress s.pc 1) (BitVec.ofNat 8 (bits / 256)) }

end Sys2Proof.Machine
end

