-- ==== Sys2Proof/Safety.lean ====
section
/-! DEFINITION. The terms the statements use: the invariant of a machine that keeps its hard-wired bits, what an instruction leaves unchanged, operands in exact arithmetic, and what a trap leaves behind. -/

namespace Sys2Proof

/-! ### Tables of the spec -/

/-- The PSR bits that an instruction may change, its row of 10_state.md R62. -/
def Instr.flagRow : Instr → List Nat
  | .addReg _ _ | .addImm _ _ | .subReg _ _ | .subImm _ _ | .cmpReg _ _ | .cmpImm _ _ | .adc _ _ | .sbc _ _ => [3, 2, 1, 0]
  | .andReg _ _ | .andImm _ _ | .orReg _ _ | .orImm _ _ | .xorReg _ _ | .xorImm _ _ | .notReg _ _ | .notImm _ _ => [1, 0]
  | .srlImm _ _ | .srlReg _ _ | .sllImm _ _ | .sllReg _ _ | .sraImm _ _ | .sraReg _ _ | .slaImm _ _ | .slaReg _ _
  | .rrImm _ _ | .rrReg _ _ | .rlImm _ _ | .rlReg _ _ => [1, 0]
  | .scan0 _ _ | .scan1 _ _ => [3, 2, 1, 0]
  | .btst _ _ => [1]
  | .div0s _ | .div0u _ => [6, 0]
  | .mac _ => [7]
  | .ldWToSpecial .psr _ | .reti => List.range 32
  | .int _ => [4]
  | _ => []

/-- The PSR bits for which an instruction's row of 10_state.md R62 prints 0. -/
def Instr.zeroRow : Instr → List Nat
  | .scan0 _ _ | .scan1 _ _ => [2, 0]
  | .div0u _ => [6, 0]
  | .int _ => [4]
  | _ => []

/-- The instructions whose operand a pending `ext` extends, and `ext` itself (30_encoding.md R128). -/
def Instr.usesPrefix : Instr → Bool
  | .addImm _ _ | .subImm _ _ | .andImm _ _ | .orImm _ _ | .xorImm _ _ | .notImm _ _ | .cmpImm _ _ | .ldWImm _ _ => true
  | .ldBInd _ _ | .ldUbInd _ _ | .ldHInd _ _ | .ldUhInd _ _ | .ldWInd _ _ | .stBInd _ _ | .stHInd _ _ | .stWInd _ _ => true
  | .btst _ _ | .bclr _ _ | .bset _ _ | .bnot _ _ => true
  | .ldBSp _ _ | .ldUbSp _ _ | .ldHSp _ _ | .ldUhSp _ _ | .ldWSp _ _ | .stBSp _ _ | .stHSp _ _ | .stWSp _ _ => true
  | .addReg _ _ | .subReg _ _ | .cmpReg _ _ | .andReg _ _ | .orReg _ _ | .xorReg _ _ => true
  | .jrgt _ | .jrgtDelayed _ | .jrge _ | .jrgeDelayed _ | .jrlt _ | .jrltDelayed _ | .jrle _ | .jrleDelayed _
  | .jrugt _ | .jrugtDelayed _ | .jruge _ | .jrugeDelayed _ | .jrult _ | .jrultDelayed _ | .jrule _ | .jruleDelayed _
  | .jreq _ | .jreqDelayed _ | .jrne _ | .jrneDelayed _ | .call _ | .callDelayed _ | .jp _ | .jpDelayed _ => true
  | .ext _ => true
  | _ => false

/-- The rows of the format tables marked reserved, each as a mask and what the code is under it (30_encoding.md R130). -/
def reservedRows : List (BitVec 16 × BitVec 16) :=
  [(0xFEC0#16, 0x00C0#16), (0xFE80#16, 0x0280#16), (0xFEC0#16, 0x06C0#16), (0xE300#16, 0x2300#16),
    (0xFB00#16, 0x9A00#16), (0xFF00#16, 0x9F00#16), (0xF300#16, 0xB100#16), (0xFF00#16, 0xB600#16),
    (0xFB00#16, 0xBA00#16), (0xE300#16, 0xA300#16)]

/-- The assigned rows with fixed 0 bits beside the operand: a mask, what the code is under it, and the fixed 0 bits
(30_encoding.md R131). -/
def fixedZeroRows : List (BitVec 16 × BitVec 16 × BitVec 16) :=
  [(0xFEC0#16, 0x0000#16, 0x013F#16), (0xFEC0#16, 0x0040#16, 0x013F#16), (0xFEC0#16, 0x0080#16, 0x013F#16),
    (0xFEC0#16, 0x0200#16, 0x0130#16), (0xFEC0#16, 0x0240#16, 0x0130#16), (0xFEC0#16, 0x0400#16, 0x013F#16),
    (0xFEC0#16, 0x0440#16, 0x013F#16), (0xFEC0#16, 0x0480#16, 0x013C#16), (0xFEC0#16, 0x04C0#16, 0x013F#16),
    (0xFEC0#16, 0x0600#16, 0x0030#16), (0xFEC0#16, 0x0640#16, 0x003F#16), (0xFEC0#16, 0x0680#16, 0x0030#16),
    (0xFF00#16, 0x8B00#16, 0x000F#16), (0xFF00#16, 0x8F00#16, 0x000F#16), (0xFF00#16, 0x9300#16, 0x000F#16),
    (0xFF00#16, 0x9700#16, 0x000F#16), (0xFF00#16, 0x9B00#16, 0x000F#16), (0xFF00#16, 0xB200#16, 0x000F#16),
    (0xFF00#16, 0xA800#16, 0x0008#16), (0xFF00#16, 0xAC00#16, 0x0008#16), (0xFF00#16, 0xB000#16, 0x0008#16),
    (0xFF00#16, 0xB400#16, 0x0008#16)]

end Sys2Proof

namespace Sys2Proof.Machine

/-! ### The invariant -/

/-- What every state that the machine reaches satisfies: the bits the spec fixes read as it says, memory is in
its canonical form, no marker of a finished instruction is left over, and a powered-down core has nothing pending. -/
structure State.Inv (s : State) : Prop where
  /-- "the LSB (bit 0) of the PC is always fixed at 0" (10_state.md R26). -/
  pcEven : s.pc &&& 1#32 = 0#32
  /-- "the low-order 2 bits of the SP is fixed at 0" (10_state.md R40). -/
  spAligned : s.sp &&& 3#32 = 0#32
  /-- The unused bits of the PSR are 0 (10_state.md R31). -/
  psrBits : s.psr &&& ~~~0x00000FDF#32 = 0#32
  /-- TTBR begins at a 1KB boundary and bits 31:28 are 0 (10_state.md R46). -/
  ttbrBits : s.ttbr &&& ~~~0x0FFFFC00#32 = 0#32
  /-- 10_state.md R52. -/
  ibar0Bits : s.ibar0 &&& ~~~0x0FFFFFFE#32 = 0#32
  /-- 10_state.md R52. -/
  ibar1Bits : s.ibar1 &&& ~~~0x0FFFFFFE#32 = 0#32
  /-- 10_state.md R52. -/
  ibar2Bits : s.ibar2 &&& ~~~0x0FFFFFFE#32 = 0#32
  /-- 10_state.md R53. -/
  dbarBits : s.dbar &&& ~~~0x0FFFFFFF#32 = 0#32
  /-- Bit 7 of the DCR byte 0x0078000 is unused (10_state.md R48; assumption log 11). -/
  dcrBits : s.dcr &&& 0x80#8 = 0#8
  /-- Bits 7 and 6 of the DCR byte 0x0078010 are unused (10_state.md R48; assumption log 11). -/
  dcr2Bits : s.dcr2 &&& 0xC0#8 = 0#8
  /-- Bits 7 to 1 of the DSR byte 0x0078012 are unused (10_state.md R49; assumption log 11). -/
  dsr2Bits : s.dsr2 &&& 0xFE#8 = 0#8
  /-- A pending delayed branch has an even target (47_branch.md R322, R346). -/
  delayEven : ∀ t, s.delay = some t → t &&& 1#32 = 0#32
  /-- A delayed instruction is not extended (47_branch.md R327). -/
  delayNotExtended : s.delay.isSome → s.ext = .none
  /-- `halt` and `slp` are no delayed instructions and use up `ext` and the shadow of `retd`
  (48_system_ext_misc.md R370, 60_exceptions.md R402). -/
  poweredDown : s.run ≠ .running → s.ext = .none ∧ s.delay = none ∧ s.retdShadow = false
  /-- Memory is in its canonical form (assumption log 3). -/
  memory : s.mem.wf = true
  /-- While no wrong value was written, bits 5:1 of 0x0078010 are 00111 or still as reset left them (U6). -/
  debugControl : s.debugCtl = .ok → s.dcr2.extractLsb' 1 5 = 0b00111#5 ∨ s.dcr2.extractLsb' 1 5 = 0#5
  /-- No state goes on after U6 has stopped the machine (assumption log 12). -/
  notTripped : s.debugCtl ≠ .tripped
  /-- The list of the running instruction is empty between steps (assumption log 16). -/
  storesSettled : s.storesNow = []

/-! ### What an instruction leaves unchanged -/

/-- Everything but PC, EXT, DELAY, memory, the memory-mapped registers and the traces of data accesses: only the
general registers `regs`, the PSR bits `bits` and the special registers `specials` may differ. -/
structure CoreFrame (regs : List Reg) (bits : List Nat) (specials : List SpecialReg) (s t : State) : Prop where
  regs : ∀ r, r ∉ regs → t.reg r = s.reg r
  flags : ∀ i, i ∉ bits → t.psr.getLsbD i = s.psr.getLsbD i
  sp : .sp ∉ specials → t.sp = s.sp
  alr : .alr ∉ specials → t.alr = s.alr
  ahr : .ahr ∉ specials → t.ahr = s.ahr
  nmiArmed : t.nmiArmed = s.nmiArmed
  nmiPending : t.nmiPending = s.nmiPending
  run : t.run = s.run
  busReleased : t.busReleased = s.busReleased
  zdiv : t.zdiv = s.zdiv
  retdShadow : t.retdShadow = s.retdShadow
  cfg : t.cfg = s.cfg
  inputs : t.inputs = s.inputs
  freeCount : t.freeCount = s.freeCount
  storesPrev : t.storesPrev = s.storesPrev
  storesPrev2 : t.storesPrev2 = s.storesPrev2

/-- The registers that lie in memory: TTBR with its write enable, and the debug registers. -/
structure MappedFrame (s t : State) : Prop where
  ttbr : t.ttbr = s.ttbr
  ttbrWe : t.ttbrWe = s.ttbrWe
  dcr : t.dcr = s.dcr
  dcr2 : t.dcr2 = s.dcr2
  dsr : t.dsr = s.dsr
  dsr2 : t.dsr2 = s.dsr2
  ibar0 : t.ibar0 = s.ibar0
  ibar1 : t.ibar1 = s.ibar1
  ibar2 : t.ibar2 = s.ibar2
  dbar : t.dbar = s.dbar

/-- Every address reads as before. -/
def SameMemory (s t : State) : Prop :=
  ∀ access a, t.readByte access a = s.readByte access a

/-- Every address that is not listed reads as before. -/
def SameMemoryExcept (stored : List Nat) (s t : State) : Prop :=
  ∀ access a, a ∉ stored → t.readByte access a = s.readByte access a

/-- No data access left a trace. -/
structure NoAccess (s t : State) : Prop where
  dbrk : t.dbrk = s.dbrk
  debugCtl : t.debugCtl = s.debugCtl
  storesNow : t.storesNow = s.storesNow

/-- The frame of an instruction that makes no data access. -/
structure QuietFrame (regs : List Reg) (bits : List Nat) (specials : List SpecialReg) (s t : State) : Prop where
  core : CoreFrame regs bits specials s t
  mapped : MappedFrame s t
  memory : SameMemory s t
  accesses : NoAccess s t

/-- The frame of an instruction that reads data and stores none. -/
structure ReadFrame (regs : List Reg) (bits : List Nat) (specials : List SpecialReg) (s t : State) : Prop where
  core : CoreFrame regs bits specials s t
  mapped : MappedFrame s t
  memory : SameMemory s t
  storesNow : t.storesNow = s.storesNow

/-- The instruction ended at the next address and used up the pending `ext` (10_state.md R24, R50). -/
structure Advanced (s t : State) : Prop where
  pc : t.pc = s.pc + 2#32
  ext : t.ext = .none
  delay : t.delay = s.delay

/-! ### Operands in exact arithmetic -/

/-- The fields of the pending `ext` placed above a field of `width` bits with value `field`
(30_encoding.md R120). -/
def Ext.joined (e : Ext) (width field : Nat) : Nat :=
  match e with
  | .none => field
  | .one e1 => e1.toNat * 2 ^ width + field
  | .two e1 e2 => (e1.toNat * 2 ^ 13 + e2.toNat) * 2 ^ width + field

/-- How many bits `Ext.joined` fills. -/
def Ext.joinedBits (e : Ext) (width : Nat) : Nat :=
  match e with
  | .none => width
  | .one _ => width + 13
  | .two _ _ => width + 26

/-- The value of a sign6 operand (30_encoding.md R122). -/
def Ext.signed6 (e : Ext) (sign6 : BitVec 6) : Int :=
  ((e.joined 6 sign6.toNat : Nat) : Int).bmod (2 ^ e.joinedBits 6)

/-- The displacement of a PC-relative branch in bytes (47_branch.md R322): with two `ext` the low three bits of the
first are ignored. -/
def Ext.displacement (e : Ext) (sign8 : BitVec 8) : Int :=
  match e with
  | .none => ((2 * sign8.toNat : Nat) : Int).bmod (2 ^ 9)
  | .one e1 => ((e1.toNat * 2 ^ 9 + 2 * sign8.toNat : Nat) : Int).bmod (2 ^ 22)
  | .two e1 e2 => (((e1.toNat / 8 * 2 ^ 13 + e2.toNat) * 2 ^ 9 + 2 * sign8.toNat : Nat) : Int).bmod (2 ^ 32)

/-- The first operand of `op %rd,%rs` (42_arithmetic.md R222, 41_logic.md R202). -/
def State.leftOperand (s : State) (rd rs : Reg) : Word :=
  if s.ext = .none then s.reg rd else s.reg rs

/-- The second operand of `op %rd,%rs` (42_arithmetic.md R222, 41_logic.md R202). -/
def State.rightOperand (s : State) (rs : Reg) : Word :=
  if s.ext = .none then s.reg rs else BitVec.ofNat 32 (s.ext.joined 0 0)

/-- The address of a `[%rb]` form (40_data_transfer.md R153). -/
def State.baseAddress (s : State) (rb : Reg) : Word :=
  if s.ext = .none then s.reg rb else s.reg rb + BitVec.ofNat 32 (s.ext.joined 0 0)

/-- The address of a `[%sp+imm6]` form (40_data_transfer.md R152): scaled without `ext`, rounded down to the
size with it. -/
def State.stackAddress (s : State) (size : Size) (imm6 : BitVec 6) : Word :=
  s.sp + BitVec.ofNat 32
    (if s.ext = .none then imm6.toNat * size.bytes else s.ext.joined 6 imm6.toNat / size.bytes * size.bytes)

/-- The number in the `n` bytes from `x` upward, little endian (20_memory.md R73). -/
def State.numberAt (s : State) (access : Nat) (x : Word) : Nat → Nat
  | 0 => 0
  | n + 1 => State.numberAt s access x n + (s.readByte access (s.byteAddress x n)).toNat * 256 ^ n

/-- `v`, a number of `size`, as a load leaves it in a register: extended with its sign or with zeros
(40_data_transfer.md R154). -/
def loadedWord (size : Size) (signed : Bool) (v : Nat) : Word :=
  if signed then BitVec.ofInt 32 ((v : Int).bmod (2 ^ (8 * size.bytes))) else BitVec.ofNat 32 v

/-- A plain memory byte: RAM, no register of the core, and not guarded by user mode (20_memory.md R82). -/
def State.plainRam (s : State) (a : Nat) : Prop :=
  kindAt s.cfg a = .ram ∧ mappedByte? a = none ∧
    ¬(debugRegistersFirst ≤ a ∧ a ≤ debugWindowLast ∧ s.userMode = true)

/-- The `n` bus addresses from `x` upward. -/
def State.addresses (s : State) (x : Word) (n : Nat) : List Nat :=
  (List.range n).map (s.byteAddress x)

/-- The `n` bytes from `x` upward are different plain memory bytes. -/
def State.plainBlock (s : State) (x : Word) (n : Nat) : Prop :=
  (s.addresses x n).Nodup ∧ ∀ a ∈ s.addresses x n, s.plainRam a

/-! ### The forms of loads and stores, and what a data break records -/

/-- The loads from memory of a size, each with the address it loads from (40_data_transfer.md R151 to R156). -/
def State.loadForms (s : State) (size : Size) (rd rb : Reg) (imm6 : BitVec 6) : List (Instr × Word) :=
  match size with
  | .byte => [(.ldBInd rd rb, s.baseAddress rb), (.ldUbInd rd rb, s.baseAddress rb), (.ldBPost rd rb, s.reg rb),
      (.ldUbPost rd rb, s.reg rb), (.ldBSp rd imm6, s.stackAddress .byte imm6), (.ldUbSp rd imm6, s.stackAddress .byte imm6)]
  | .half => [(.ldHInd rd rb, s.baseAddress rb), (.ldUhInd rd rb, s.baseAddress rb), (.ldHPost rd rb, s.reg rb),
      (.ldUhPost rd rb, s.reg rb), (.ldHSp rd imm6, s.stackAddress .half imm6), (.ldUhSp rd imm6, s.stackAddress .half imm6)]
  | .word => [(.ldWInd rd rb, s.baseAddress rb), (.ldWPost rd rb, s.reg rb), (.ldWSp rd imm6, s.stackAddress .word imm6)]

/-- The stores of a size, each with the address it stores to (40_data_transfer.md R151 to R156). -/
def State.storeForms (s : State) (size : Size) (rb rs : Reg) (imm6 : BitVec 6) : List (Instr × Word) :=
  match size with
  | .byte => [(.stBInd rb rs, s.baseAddress rb), (.stBPost rb rs, s.reg rb), (.stBSp imm6 rs, s.stackAddress .byte imm6)]
  | .half => [(.stHInd rb rs, s.baseAddress rb), (.stHPost rb rs, s.reg rb), (.stHSp imm6 rs, s.stackAddress .half imm6)]
  | .word => [(.stWInd rb rs, s.baseAddress rb), (.stWPost rb rs, s.reg rb), (.stWSp imm6 rs, s.stackAddress .word imm6)]

/-- A data access with base address `x` matches the data break; `enable` is the DCR bit of its direction, 5 for a
read and 6 for a write (60_exceptions.md R456). -/
def State.breakAccess (s : State) (enable : Nat) (x : Word) : Prop :=
  s.userMode = true ∧ s.dcr.getLsbD 4 = true ∧ s.dcr.getLsbD enable = true ∧ s.byteAddress x 0 = s.dbar.toNat

/-- What an instruction that reads at `reads` and writes at `writes` leaves in DBRK_PENDING: without a match it stays;
with one it is set, each kind is recorded exactly if an access of that kind matched or it was recorded before,
and a count that was drawn goes on (60_exceptions.md R456; assumption log 15). -/
structure BreakRecorded (s : State) (reads writes : List Word) (t : State) : Prop where
  quiet : (∀ x ∈ reads, ¬s.breakAccess 5 x) → (∀ x ∈ writes, ¬s.breakAccess 6 x) → t.dbrk = s.dbrk
  armed : ((∃ x ∈ reads, s.breakAccess 5 x) ∨ ∃ x ∈ writes, s.breakAccess 6 x) →
    ∃ b, t.dbrk = some b ∧
      (b.read = true ↔ (∃ x ∈ reads, s.breakAccess 5 x) ∨ ∃ old, s.dbrk = some old ∧ old.read = true) ∧
      (b.write = true ↔ (∃ x ∈ writes, s.breakAccess 6 x) ∨ ∃ old, s.dbrk = some old ∧ old.write = true) ∧
      b.wait = s.dbrk.bind DataBreak.wait

/-! ### What a trap leaves behind -/

/-- The trap with vector `TTBR + offset` can save its frame: the two stack words are plain memory and the
vector does not lie in them. -/
def State.stackReady (s : State) (offset : Nat) : Prop :=
  s.plainBlock (s.sp - 8#32) 8 ∧
    ∀ a ∈ s.addresses (s.ttbr + BitVec.ofNat 32 offset) 4, a ∉ s.addresses (s.sp - 8#32) 8

/-- What taking a trap leaves behind (60_exceptions.md R410), `s` being the state in which it is taken, `ret` the
return address and `level` the level of a maskable interrupt. -/
structure TrapTaken (s : State) (offset : Nat) (ret : Word) (level : Option (BitVec 4)) (t : State) : Prop where
  sp : t.sp = s.sp - 8#32
  savedPsr : ∀ access, t.numberAt access t.sp 4 = s.psr.toNat
  savedPc : ∀ access, t.numberAt access (t.sp + 4#32) 4 = ret.toNat
  ie : t.psr.getLsbD 4 = false
  il : (t.psr.extractLsb' 8 4 : BitVec 4) = level.getD (s.psr.extractLsb' 8 4)
  flags : ∀ i, i ≠ 4 → (i < 8 ∨ 12 ≤ i) → t.psr.getLsbD i = s.psr.getLsbD i
  pc : t.pc.toNat = s.numberAt 1 (s.ttbr + BitVec.ofNat 32 offset) 4 / 2 * 2
  ext : t.ext = .none
  run : t.run = .running
  regs : ∀ r, t.reg r = s.reg r
  alr : t.alr = s.alr
  ahr : t.ahr = s.ahr
  mapped : MappedFrame s t
  memory : SameMemoryExcept (s.addresses (s.sp - 8#32) 8) s t
  nmiArmed : t.nmiArmed = s.nmiArmed
  delay : t.delay = s.delay
  retdShadow : t.retdShadow = s.retdShadow
  busReleased : t.busReleased = s.busReleased
  cfg : t.cfg = s.cfg

/-- The debugging exception can save its two words: they are plain memory or the first bytes of Area 2, and the
vector does not lie in them. -/
def State.debugReady (s : State) : Prop :=
  s.plainBlock (Config.debugBase s.cfg + 8#32) 8 ∧
    ∀ a ∈ s.addresses (Config.debugBase s.cfg) 4, a ∉ s.addresses (Config.debugBase s.cfg + 8#32) 8

/-- An instruction break address stands for the instruction at `pc`: bits 27:1 agree (60_exceptions.md R454). -/
def breakAt (ibar pc : Word) : Prop :=
  ∀ b, 1 ≤ b → b < 28 → ibar.getLsbD b = pc.getLsbD b

/-- What the debugging exception leaves behind (60_exceptions.md R450, R451): `causes` and `causes2` are the bits it
sets in the two DSR bytes. -/
structure DebugTaken (s : State) (ret : Word) (causes causes2 : Byte) (t : State) : Prop where
  savedPc : ∀ access, t.numberAt access (Config.debugBase s.cfg + 8#32) 4 = ret.toNat
  savedR0 : ∀ access, t.numberAt access (Config.debugBase s.cfg + 12#32) 4 = (s.reg 0).toNat
  dsr : t.dsr = s.dsr ||| causes
  dsr2 : t.dsr2 = s.dsr2 ||| causes2
  dm : t.dcr = s.dcr ||| 1#8
  pc : t.pc.toNat = s.numberAt 1 (Config.debugBase s.cfg) 4 / 2 * 2
  ext : t.ext = .none
  regs : ∀ r, t.reg r = s.reg r
  psr : t.psr = s.psr
  sp : t.sp = s.sp
  alr : t.alr = s.alr
  ahr : t.ahr = s.ahr
  ttbr : t.ttbr = s.ttbr
  ttbrWe : t.ttbrWe = s.ttbrWe
  dcr2 : t.dcr2 = s.dcr2
  ibar0 : t.ibar0 = s.ibar0
  ibar1 : t.ibar1 = s.ibar1
  ibar2 : t.ibar2 = s.ibar2
  dbar : t.dbar = s.dbar
  zdiv : t.zdiv = s.zdiv
  run : t.run = s.run
  nmiArmed : t.nmiArmed = s.nmiArmed
  nmiPending : t.nmiPending = s.nmiPending
  delay : t.delay = s.delay
  retdShadow : t.retdShadow = s.retdShadow
  memory : SameMemoryExcept (s.addresses (Config.debugBase s.cfg + 8#32) 8 ++ [0x78000, 0x78002, 0x78012]) s t
  cfg : t.cfg = s.cfg

/-! ### The memory-mapped registers -/

/-- A bus address of a debug register (60_exceptions.md R459). -/
def debugRegisterAt (a : Nat) : Prop := 0x0078000 ≤ a ∧ a ≤ 0x0078017

/-- What the memory-mapped registers become when the byte `b` is written at the bus address `a`, whatever lies there:
TBRP and TTBR with the write protection, the debug registers in debugging mode alone (10_state.md R46 to R49, R52, R53;
20_memory.md R82). -/
structure MappedByteWritten (s : State) (a : Nat) (b : Byte) (t : State) : Prop where
  ttbrWe : t.ttbrWe = if a = 0x004812D then b == 0x59#8 else s.ttbrWe && a != 0x0048137
  ttbr : ∀ k < 32, t.ttbr.getLsbD k =
    if s.ttbrWe = true ∧ a = 0x0048134 + k / 8 then b.getLsbD (k % 8) && decide (10 ≤ k ∧ k < 28) else s.ttbr.getLsbD k
  dcr : t.dcr = if a = 0x0078000 ∧ s.userMode = false then (b &&& 0x7E#8) ||| (s.dcr &&& 0x01#8) else s.dcr
  dsr : t.dsr = if a = 0x0078002 ∧ s.userMode = false then b else s.dsr
  dcr2 : t.dcr2 = if a = 0x0078010 ∧ s.userMode = false then b &&& 0x3F#8 else s.dcr2
  dsr2 : t.dsr2 = if a = 0x0078012 ∧ s.userMode = false then b &&& 0x01#8 else s.dsr2
  ibar0 : ∀ k < 32, t.ibar0.getLsbD k =
    if s.userMode = false ∧ a = 0x0078004 + k / 8 then b.getLsbD (k % 8) && decide (1 ≤ k ∧ k < 28) else s.ibar0.getLsbD k
  ibar1 : ∀ k < 32, t.ibar1.getLsbD k =
    if s.userMode = false ∧ a = 0x0078008 + k / 8 then b.getLsbD (k % 8) && decide (1 ≤ k ∧ k < 28) else s.ibar1.getLsbD k
  ibar2 : ∀ k < 32, t.ibar2.getLsbD k =
    if s.userMode = false ∧ a = 0x0078014 + k / 8 then b.getLsbD (k % 8) && decide (1 ≤ k ∧ k < 28) else s.ibar2.getLsbD k
  dbar : ∀ k < 32, t.dbar.getLsbD k =
    if s.userMode = false ∧ a = 0x007800C + k / 8 then b.getLsbD (k % 8) && decide (k < 28) else s.dbar.getLsbD k

/-! ### Data breaks and the bus master -/

/-- The data break pending at the boundary of the step that begins in `s`, with the number of instructions still to
run: drawn with the free value of this step if it was not drawn before (60_exceptions.md R456, U7;
assumption log 15). -/
def State.drawnBreak (s : State) : Option DataBreak :=
  s.dbrk.map fun b => { b with wait := some (b.wait.getD (Config.dataBreakSkid (s.freeCount + 1))) }

/-- A debugging exception is due at the boundary of the step that begins in `s`: single step, an instruction break at
`pc`, or a data break whose count is 0 (60_exceptions.md R451, R452, R454, R456). -/
def State.debugDue (s : State) : Prop :=
  s.dcr.getLsbD 1 = true ∨ s.dcr.getLsbD 2 = true ∧ breakAt s.ibar0 s.pc ∨ s.dcr.getLsbD 3 = true ∧ breakAt s.ibar1 s.pc ∨
    s.dcr2.getLsbD 0 = true ∧ breakAt s.ibar2 s.pc ∨ ∃ b, s.drawnBreak = some b ∧ b.wait = some 0

/-- The last byte that the external bus master writes to the bus address `a` during the step. -/
def State.lastBusWrite (s : State) (a : Nat) : Option Byte :=
  (s.nextInput.busWrites.reverse.find? fun c => busAddress s.cfg (BitVec.ofNat 32 c.1) = a).map Prod.snd

/-! ### Sequences of instructions -/

/-- The instructions executed one after the other, without the steps around them. -/
def execAll : List Instr → State → Result
  | [], s => .next s
  | i :: rest, s =>
    match exec i s with
    | .next t => execAll rest t
    | .fault r => .fault r
    | .refused r => .refused r

/-! ### Steps -/

/-- The state in which a step looks at its boundary: the step has begun and its input is latched. -/
def State.atBoundary (s : State) : State := s.begun.latch s.nextInput

/-- The step is an ordinary one: no reset, no impossible request, the bus is the core's. -/
structure OrdinaryInput (s : State) : Prop where
  reset : s.nextInput.reset = none
  busreq : s.nextInput.busreq = false
  irq : impossibleRequest s.cfg s.nextInput.irq = false

/-- No debugging exception is enabled and none is pending. -/
structure DebugQuiet (s : State) : Prop where
  dcr : s.dcr &&& 0x0E#8 = 0#8
  dcr2 : s.dcr2 &&& 0x01#8 = 0#8
  dbrk : s.dbrk = none

end Sys2Proof.Machine
end

