-- ==== Sys2Proof/Certificates/Slice0/Obligations.lean ====
section
/-! DEFINITION. The statements about the model, for the provers. Each docstring names the rules of spec/ it formalises; results are stated in exact arithmetic, bit by bit or byte by byte. -/

open Sys2Proof Sys2Proof.Machine

/-! ### Encoding -/

/-- Decoding the code of any instruction gives that instruction back, with every operand at every value its
field admits (30_encoding.md R100 to R111). -/
def Obligations.DecodeOfEncode : Prop :=
  ∀ i : Instr, decode (encode i) = .ok i

/-- A code that decodes is the code of the instruction it decodes to: no bit of a code is dropped, and no two
codes share an instruction (30_encoding.md R101 to R111). For `div3s` that rests on the model's choice to keep the bits
7:4 it ignores as a field, so that the codes of one `div3s` are 16 instructions of the model (30_encoding.md R109;
assumption log 19); that stray 1 bits are no code is the spec's decision D8 (30_encoding.md R131; assumption log 18). -/
def Obligations.EncodeOfDecode : Prop :=
  ∀ (w : BitVec 16) (i : Instr), decode w = .ok i → encode i = w

/-- Six codes that the spec prints decode to the instructions it names: 0xA15A, 0x42BA, 0x3465 and 0xB2F0 of section
2.12, 0x1910 of vector J17 and 0xD000 of vector J8, both in section 2.8 (96_test_vectors_part2.md). -/
def Obligations.SampleCodesDecode : Prop :=
  decode 0xA15A#16 = .ok (.ldBReg 0xA 0x5) ∧ decode 0x42BA#16 = .ok (.ldBSp 0xA 0x2B#6) ∧
  decode 0x3465#16 = .ok (.stBInd 0x6 0x5) ∧ decode 0x1910#16 = .ok (.jreqDelayed 0x10#8) ∧
  decode 0xD000#16 = .ok (.ext 0x1000#13) ∧ decode 0xB2F0#16 = .ok (.mac 15)

/-- Exactly the codes that the spec leaves unassigned are refused, each under the name of its kind: class 7 and the rows
marked reserved (30_encoding.md R130), a 1 in a bit that an assigned row fixes at 0 (R131), special-register numbers 4
to 15 (R133). That they are refused is the spec's decision D8; the four names are the model's (assumption log 18). -/
def Obligations.UnassignedCodesRefused : Prop :=
  ∀ w : BitVec 16,
    (decode w = .error .reservedClass ↔ 0xE000 ≤ w.toNat) ∧
    (decode w = .error .reservedOperation ↔ ∃ p ∈ reservedRows, w &&& p.1 = p.2) ∧
    (decode w = .error .fixedBitSet ↔ ∃ p ∈ fixedZeroRows, w &&& p.1 = p.2.1 ∧ w &&& p.2.2 ≠ 0#16) ∧
    (decode w = .error .reservedSpecialRegister ↔
      w.extractLsb' 8 8 = 0xA0#8 ∧ 4 ≤ (w.extractLsb' 0 4).toNat ∨
        w.extractLsb' 8 8 = 0xA4#8 ∧ 4 ≤ (w.extractLsb' 4 4).toNat) ∧
    decode w ≠ .error .truncated

/-! ### Reset and the invariant -/

/-- The values of the machine after a cold start with BTA3 = 1 (10_state.md R61). That TTBR_WE is 0 is the spec's
decision D15 and that both DSR bytes are 0 its decision D16, where the source states nothing (assumption log 27).
The registers it leaves undefined are not named here. -/
def Obligations.ResetValues : Prop :=
  State.reset.psr = 0#32 ∧ State.reset.ttbr = 0x00080000#32 ∧ State.reset.ttbrWe = false ∧
  State.reset.dcr = 0#8 ∧ State.reset.dcr2 = 0#8 ∧ State.reset.dsr = 0#8 ∧ State.reset.dsr2 = 0#8 ∧
  State.reset.ext = .none ∧ State.reset.delay = none ∧ State.reset.nmiArmed = false ∧
  State.reset.nmiPending = false ∧ State.reset.zdiv = .none ∧ State.reset.dbrk = none ∧
  State.reset.retdShadow = false ∧ State.reset.run = .running ∧
  State.reset.pc = maskPc (State.reset.read32 0 0x00080000#32)

/-- The invariant holds right after reset: its clauses on PC, SP, PSR, TTBR, the break address registers, DELAY and RUN
are the spec's. The model's choice and no rule of the spec: the unused bits of the DCR and DSR bytes are 0 (assumption
log 11), memory is canonical (assumption log 3), U6 has not stopped the machine (assumption log 12), and no address is
left listed for a finished instruction (assumption log 16); so are the values of the registers that reset leaves
undefined (assumption log 2). -/
def Obligations.InvariantAtReset : Prop :=
  State.reset.Inv

/-- Every step from a state with the invariant ends in a state with the invariant: PC stays even, SP word
aligned, the unused PSR and TTBR bits and the bits of IBAR0 to IBAR2 and DBAR that are not implemented 0
(10_state.md R26, R31, R40, R46, R52, R53). The model's choice and no rule of the spec: the unused bits of the DCR and
DSR bytes are 0 (assumption log 11), memory is canonical (assumption log 3), no state goes on after the stop of U6
(assumption log 12), and no address is left listed for a finished instruction (assumption log 16). -/
def Obligations.StepKeepsInvariant : Prop :=
  ∀ s t : State, s.Inv → step s = .next t → t.Inv

/-- A reset input is the whole step, whatever is pending and in every status (70_reset_and_hazards.md R480,
R482): the listed state gets its reset value, TTBR the boot address or stays, PC comes from the reset vector, and no
byte of memory changes. The undefined registers are free values. That TTBR_WE becomes 0 is the spec's decision D15,
that the DSR bytes become 0 its decision D16, that a hot start reads its vector at the kept TTBR its decision D32;
that memory stays as it is, where U1 leaves it open, is the model's choice (assumption log 6). -/
def Obligations.ResetStep : Prop :=
  ∀ (s : State) (kind : ResetKind), s.nextInput.reset = some kind →
    impossibleRequest s.cfg s.nextInput.irq = false →
    ∃ t, step s = .next t ∧
      t.psr = 0#32 ∧ t.ttbrWe = false ∧ t.dcr = 0#8 ∧ t.dcr2 = 0#8 ∧ t.dsr = 0#8 ∧ t.dsr2 = 0#8 ∧
      t.ext = .none ∧ t.delay = none ∧ t.retdShadow = false ∧ t.nmiArmed = false ∧ t.nmiPending = false ∧
      t.zdiv = .none ∧ t.dbrk = none ∧ t.run = .running ∧ t.mem = s.mem ∧ t.cfg = s.cfg ∧
      (kind = .cold → t.ttbr = if s.cfg.bta3 then 0x00080000#32 else 0x00C00000#32) ∧
      (kind = .hot → t.ttbr = s.ttbr) ∧
      t.pc.toNat = t.numberAt 1 t.ttbr 4 / 2 * 2

/-! ### The step -/

/-- When the step is an ordinary one, no trap is taken at the boundary and the two bytes at PC, the low one first, are
the code of an instruction that may stand there, the step executes exactly that instruction in that state;
afterwards a delayed branch that was pending sends PC to its target, the shadow of `retd` ends, a zero
division that was late is due, a data break whose delay was drawn is one instruction nearer, and the addresses
stored to move on (60_exceptions.md R402). That the low byte of a code comes first is the spec's decision D4
(20_memory.md R74); how a late zero division, a drawn data break and the stored addresses age is the model's choice
(assumption log 14, 15, 16, 33). -/
def Obligations.StepRunsDecodedInstruction : Prop :=
  ∀ (s u v : State) (i : Instr), OrdinaryInput s → s.atBoundary.boundary s.nextInput.irq = .passed u →
    u.run = .running →
    u.readByte 0 (u.byteAddress u.pc 0) = (encode i).extractLsb' 0 8 →
    u.readByte 0 (u.byteAddress u.pc 1) = (encode i).extractLsb' 8 8 →
    u.codeJustStored = false → (u.touch .half u.pc).debugCtl ≠ .tripped →
    (u.delay.isSome → i.isDelaySlotForm = true) →
    exec i u = .next v → v.debugCtl ≠ .tripped →
    ∃ t, step s = .next t ∧
      t.pc = u.delay.getD v.pc ∧
      t.delay = (if u.delay.isSome then none else v.delay) ∧
      t.retdShadow = (if u.retdShadow then false else v.retdShadow) ∧
      t.zdiv = (if u.zdiv = .late then .due else v.zdiv) ∧
      t.dbrk = ageDataBreak u.dbrk v.dbrk ∧
      t.storesNow = [] ∧
      t.storesPrev = (if unfinished i u v then u.storesPrev else v.storesNow) ∧
      t.storesPrev2 = (if unfinished i u v then u.storesPrev2 else u.storesPrev) ∧
      t = { v with pc := t.pc, delay := t.delay, retdShadow := t.retdShadow, zdiv := t.zdiv, dbrk := t.dbrk,
                   storesNow := t.storesNow, storesPrev := t.storesPrev, storesPrev2 := t.storesPrev2 }

/-- A boundary takes no trap and loses nothing that is pending while an `ext` or a delayed branch is pending or in
the shadow of `retd`, whatever is requested or enabled (60_exceptions.md R406 (1), (2), (6)), and also with
nothing pending, nothing enabled and no acceptable request (60_exceptions.md R402, line 2). -/
def Obligations.BoundaryWithoutTrapPasses : Prop :=
  ∀ (s : State) (irq : Option IrqRequest),
    (s.ext ≠ .none ∨ s.delay ≠ none ∨ s.retdShadow = true) ∨
      (s.zdiv = .none ∧ DebugQuiet s ∧ s.nmiPending = false ∧ s.acceptable irq = none) →
    s.boundary irq = .passed s

/-- A core in HALT or SLEEP that no trap leaves only waits: the step consumes its input, latches an armed NMI edge
and changes nothing else (60_exceptions.md R460). That a request which is not accepted does not end HALT or SLEEP is
the spec's decision D31; that both wait in the same way is read from the spec (assumption log 30). -/
def Obligations.PoweredDownWaits : Prop :=
  ∀ s : State, OrdinaryInput s → s.run ≠ .running → s.zdiv = .none →
    s.atBoundary.acceptable s.nextInput.irq = none ∨ s.userMode = false →
    (s.nmiArmed && (s.nmiPending || s.nextInput.nmiEdge) && s.userMode) = false →
    step s = .next
      { s with
        inputs := s.inputs.tail
        freeCount := s.freeCount + 1
        busReleased := false
        nmiPending := s.nmiPending || (s.nextInput.nmiEdge && s.nmiArmed) }

/-- While #BUSREQ is low the core does nothing: only BUS_RELEASED, the latched NMI edge and external RAM change, and a
byte of external RAM becomes what the external master writes there last, or stays (60_exceptions.md R465,
20_memory.md R85). That the bus is released between steps, and that the master's writes land only in RAM at 0x0100000
and above, is the model's choice (assumption log 23). -/
def Obligations.ReleasedBusStopsTheCore : Prop :=
  ∀ s : State, s.nextInput.reset = none → s.nextInput.busreq = true →
    impossibleRequest s.cfg s.nextInput.irq = false →
    ∃ mem,
      step s = .next
        { s with
          inputs := s.inputs.tail
          freeCount := s.freeCount + 1
          busReleased := true
          nmiPending := s.nmiPending || (s.nextInput.nmiEdge && s.nmiArmed)
          mem := mem } ∧
      (∀ a, a < externalFirst ∨ kindAt s.cfg a ≠ .ram → Memory.read mem a = Memory.read s.mem a) ∧
      ∀ a, externalFirst ≤ a → kindAt s.cfg a = .ram →
        Memory.read mem a = (s.lastBusWrite a).getD (Memory.read s.mem a)

/-- An acceptable maskable interrupt at an unmasked boundary in user mode at which no debugging exception is due, as none
ever is in HALT and SLEEP, is taken: its frame is saved with PC, IE is cleared, IL becomes its level and the vector at
TTBR + 64 + 4n is loaded, also out of HALT and SLEEP; a data break that is not due stays pending (60_exceptions.md R402,
R410, R431, R460). When a data break is due is the model's choice (assumption log 15). -/
def Obligations.MaskableInterruptTaken : Prop :=
  ∀ (s : State) (level : BitVec 4) (n : Nat), OrdinaryInput s → s.nextInput.irq = some ⟨level, n⟩ →
    s.masked = false → s.zdiv = .none ∨ s.zdiv = .late → (s.run = .running → ¬s.debugDue) → s.userMode = true →
    (s.nmiArmed && (s.nmiPending || s.nextInput.nmiEdge)) = false →
    s.psr.getLsbD 4 = true → (s.psr.extractLsb' 8 4 : BitVec 4).toNat < level.toNat →
    s.debugCtl = .ok → s.stackReady (64 + 4 * n) →
    ∃ t, step s = .next t ∧ TrapTaken s.atBoundary (64 + 4 * n) s.pc (some level) t ∧
      t.nmiPending = s.atBoundary.nmiPending ∧ t.zdiv = s.zdiv ∧
      t.dbrk = if s.run = .running then s.drawnBreak else s.dbrk

/-- A maskable request with IE = 0, with a level not above IL, or in debugging mode leaves no trace, and neither does
an edge on #NMI before `ld.w %sp,%rs` has armed the NMI: the step is the one without the request or the edge
(60_exceptions.md R424, R431, R457; 10_state.md R54, R56; the spec's decisions D9, D10). -/
def Obligations.IneffectiveRequestsIgnored : Prop :=
  (∀ (s : State) (q : IrqRequest), s.nextInput.irq = some q → impossibleRequest s.cfg (some q) = false →
    s.psr.getLsbD 4 = false ∨ q.level.toNat ≤ (s.psr.extractLsb' 8 4 : BitVec 4).toNat ∨
      s.userMode = false →
    step s = step { s with inputs := { s.nextInput with irq := none } :: s.inputs.tail }) ∧
  (∀ s : State, s.nmiArmed = false → s.nextInput.nmiEdge = true →
    step s = step { s with inputs := { s.nextInput with nmiEdge := false } :: s.inputs.tail })

/-- An NMI that is armed and pending, or whose edge arrives with this step, is taken at an unmasked boundary in user mode
at which no debugging exception is due, as none ever is in HALT and SLEEP, before any maskable interrupt and whatever IE
and IL are; the latch is cleared, IL stays, and a data break that is not due stays pending (60_exceptions.md R402, R405,
R410, R424, R460). When a data break is due is the model's choice (assumption log 15). -/
def Obligations.NmiTaken : Prop :=
  ∀ s : State, OrdinaryInput s → s.masked = false → s.zdiv = .none ∨ s.zdiv = .late →
    (s.run = .running → ¬s.debugDue) → s.userMode = true → s.nmiArmed = true →
    s.nmiPending = true ∨ s.nextInput.nmiEdge = true → s.debugCtl = .ok → s.stackReady 28 →
    ∃ t, step s = .next t ∧ TrapTaken s.atBoundary 28 s.pc none t ∧ t.nmiPending = false ∧
      t.zdiv = s.zdiv ∧ t.dbrk = if s.run = .running then s.drawnBreak else s.dbrk

/-- A zero division that is due is taken at the first unmasked boundary, before every other trap of that boundary
and in both modes, through the vector at TTBR + 16 (60_exceptions.md R405, R410, R420). -/
def Obligations.DueZeroDivisionTaken : Prop :=
  ∀ s : State, OrdinaryInput s → s.masked = false → s.zdiv = .due → s.debugCtl = .ok →
    s.stackReady 16 →
    ∃ t, step s = .next t ∧ TrapTaken s.atBoundary 16 s.pc none t ∧ t.zdiv = .none ∧
      t.nmiPending = s.atBoundary.nmiPending ∧ t.dbrk = s.dbrk

/-- A zero division just raised is, by the free choice of U5, taken at the first unmasked boundary or due after
exactly one more instruction (60_exceptions.md R420): whatever the choice, the boundary takes it, or the state
in which the next instruction runs holds it as late, and that instruction's step leaves it due. The bound of one
instruction is the spec's decision D27; that the choice is drawn at the first unmasked boundary and stays late over
another trap is the model's choice (assumption log 14). -/
def Obligations.RaisedZeroDivisionComes : Prop :=
  ∀ (s : State) (irq : Option IrqRequest), s.masked = false → s.zdiv = .raised →
    s.boundary irq = .taken ({ s with zdiv := .none }.trapEntry .hardware 16#32 s.pc none) ∨
    (∃ u, s.boundary irq = .passed u ∧ u.zdiv = .late ∧ ∀ i v, (u.endOfStep i v).zdiv = .due) ∨
    (∃ u, s.boundary irq = .taken u ∧ u.zdiv = .late)

/-- With SE set, an enabled instruction break address equal to PC in bits 27:1 or a data break that is due, an unmasked
boundary of a running core in user mode takes one debugging exception, before the NMI and any interrupt: PC and R0 go to
the two fixed words, the bits of all the factors are set, for the data break with the recorded kinds, DM is set, SP and
PSR stay; a data break that was due is used up, and one that is not due stays pending (60_exceptions.md R405, R450, R451,
R452, R454, R456, R458). When a data break is due is the model's choice (assumption log 15). -/
def Obligations.DebuggingExceptionTaken : Prop :=
  ∀ s : State, OrdinaryInput s → s.masked = false → s.zdiv = .none ∨ s.zdiv = .late → s.run = .running →
    s.userMode = true → s.debugCtl = .ok → s.debugReady →
    let due : Prop := ∃ b, s.drawnBreak = some b ∧ b.wait = some 0
    (s.dcr.getLsbD 1 = true ∨ s.dcr.getLsbD 2 = true ∧ breakAt s.ibar0 s.pc ∨
      s.dcr.getLsbD 3 = true ∧ breakAt s.ibar1 s.pc ∨ s.dcr2.getLsbD 0 = true ∧ breakAt s.ibar2 s.pc ∨ due) →
    ∃ t causes causes2, step s = .next t ∧ DebugTaken s.atBoundary s.pc causes causes2 t ∧
      (causes.getLsbD 1 = true ↔ s.dcr.getLsbD 1 = true) ∧
      (causes.getLsbD 2 = true ↔ s.dcr.getLsbD 2 = true ∧ breakAt s.ibar0 s.pc) ∧
      (causes.getLsbD 3 = true ↔ s.dcr.getLsbD 3 = true ∧ breakAt s.ibar1 s.pc) ∧
      (causes.getLsbD 4 = true ↔ due) ∧
      (causes.getLsbD 5 = true ↔ due ∧ ∃ b, s.dbrk = some b ∧ b.read = true) ∧
      (causes.getLsbD 6 = true ↔ due ∧ ∃ b, s.dbrk = some b ∧ b.write = true) ∧
      causes &&& 0x81#8 = 0#8 ∧
      (causes2.getLsbD 0 = true ↔ s.dcr2.getLsbD 0 = true ∧ breakAt s.ibar2 s.pc) ∧
      causes2 &&& 0xFE#8 = 0#8 ∧
      (due → t.dbrk = none) ∧ (¬due → t.dbrk = s.drawnBreak)

/-- Where the spec gives no behaviour the step stops by name: an instruction after a delayed branch that is none of
the 38 forms, a code stored by one of the two instructions before it, a code that stands for no instruction; an
interrupt number that the controller cannot present; and, once a store in debugging mode has given bits 5:1 of 0x0078010
another value than 00111, a fetch, a load or a store that touches a debug register, or a debugging exception
(47_branch.md R328, 20_memory.md R90, 30_encoding.md R130, 60_exceptions.md R430, 10_state.md R48, U6; the spec's
decisions D12, D7, D8, D22; which of fault and refusal, and what the wrong value stops, is the model's choice, assumption
log 12, 16, 17, 18, 21). -/
def Obligations.UnspecifiedSituationsStop : Prop :=
  (∀ s u : State, OrdinaryInput s → s.atBoundary.boundary s.nextInput.irq = .passed u → u.run = .running →
    (u.codeJustStored = true → step s = .fault .fetchOfStoredCode) ∧
    (u.codeJustStored = false → (u.touch .half u.pc).debugCtl ≠ .tripped →
      (∀ i, decode u.fetchCode = .ok i → u.delay.isSome → i.isDelaySlotForm = false →
        step s = .fault .undefinedDelayedInstruction) ∧
      (∀ e, decode u.fetchCode = .error e → step s = .refused (decodeRefusal e))) ∧
    (u.codeJustStored = false → u.debugCtl = .misset → (∃ k < 2, debugRegisterAt (u.byteAddress u.pc k)) →
      step s = .fault .debugControlMisset) ∧
    (u.codeJustStored = false → u.debugCtl = .misset → u.delay = none →
      (∀ k < 2, ¬debugRegisterAt (u.byteAddress u.pc k)) →
      (decode u.fetchCode = .ok .brk → u.userMode = true → step s = .fault .debugControlMisset) ∧
      ∀ (size : Size) (rd rb : Reg) (imm6 : BitVec 6),
        ∀ p ∈ u.loadForms size rd rb imm6 ++ u.storeForms size rb rd imm6, decode u.fetchCode = .ok p.1 →
          p.2.toNat % size.bytes = 0 → (∃ k < size.bytes, debugRegisterAt (u.byteAddress p.2 k)) →
          step s = .fault .debugControlMisset)) ∧
  (∀ s : State, OrdinaryInput s → s.masked = false → s.zdiv = .none ∨ s.zdiv = .late → s.run = .running →
    s.userMode = true → s.debugDue → s.debugCtl = .misset → step s = .fault .debugControlMisset) ∧
  (∀ (s : State) (size : Size) (rb rs : Reg) (imm6 : BitVec 6), s.userMode = false → s.debugCtl = .ok →
    ∀ p ∈ s.storeForms size rb rs imm6, p.2.toNat % size.bytes = 0 →
      ∃ t, exec p.1 s = .next t ∧ t.debugCtl ≠ .tripped ∧
        (t.debugCtl = .misset ↔ ∃ k < size.bytes, s.byteAddress p.2 k = 0x0078010 ∧
          ((s.reg rs).extractLsb' (8 * k + 1) 5 : BitVec 5) ≠ 0b00111#5)) ∧
  (∀ (s : State) (q : IrqRequest), s.nextInput.irq = some q → min s.cfg.nInterrupts 216 ≤ q.n →
    step s = .refused .impossibleInterruptNumber)

/-! ### Data transfer -/

/-- The register loads and the immediate load complete with the low byte, the low half word or the whole word of rs,
extended with its sign or with zeros, or the signed immediate, and change nothing else (40_data_transfer.md R160,
R167, R171, R178, R182, R185; 30_encoding.md R122). -/
def Obligations.RegisterLoadResults : Prop :=
  ∀ (s : State) (rd rs : Reg) (sign6 : BitVec 6),
    ∀ p ∈ ([(.ldBReg rd rs, (((s.reg rs).toNat % 256 : Nat) : Int).bmod 256),
        (.ldUbReg rd rs, (((s.reg rs).toNat % 256 : Nat) : Int)),
        (.ldHReg rd rs, (((s.reg rs).toNat % 65536 : Nat) : Int).bmod 65536),
        (.ldUhReg rd rs, (((s.reg rs).toNat % 65536 : Nat) : Int)),
        (.ldWReg rd rs, ((s.reg rs).toNat : Int)),
        (.ldWImm rd sign6, s.ext.signed6 sign6)] : List (Instr × Int)),
      ∃ t, exec p.1 s = .next t ∧ t.reg rd = BitVec.ofInt 32 p.2 ∧ QuietFrame [rd] [] [] s t ∧ Advanced s t

/-- `ld.w %sd,%rs` and `ld.w %rd,%ss` for the four special registers: PSR keeps its implemented bits, SP its word
alignment and the NMI is armed, ALR and AHR take part only with the multiplier; nothing else changes
(40_data_transfer.md R183, R184). -/
def Obligations.SpecialRegisterMoves : Prop :=
  ∀ (s : State) (rd rs : Reg),
    exec (.ldWToSpecial .psr rs) s =
      .next { s with psr := s.reg rs &&& 0x00000FDF#32, pc := s.pc + 2#32, ext := .none } ∧
    exec (.ldWToSpecial .sp rs) s =
      .next { s with sp := BitVec.ofNat 32 ((s.reg rs).toNat / 4 * 4), nmiArmed := true, pc := s.pc + 2#32, ext := .none } ∧
    exec (.ldWToSpecial .alr rs) s =
      .next { s with alr := if s.cfg.hasMultiplier then s.reg rs else s.alr, pc := s.pc + 2#32, ext := .none } ∧
    exec (.ldWToSpecial .ahr rs) s =
      .next { s with ahr := if s.cfg.hasMultiplier then s.reg rs else s.ahr, pc := s.pc + 2#32, ext := .none } ∧
    ∀ p ∈ ([(.psr, s.psr), (.sp, s.sp), (.alr, if s.cfg.hasMultiplier then s.alr else s.reg rd),
        (.ahr, if s.cfg.hasMultiplier then s.ahr else s.reg rd)] : List (SpecialReg × Word)),
      ∃ t, exec (.ldWFromSpecial rd p.1) s = .next t ∧ t.reg rd = p.2 ∧ QuietFrame [rd] [] [] s t ∧ Advanced s t

/-- A load from an aligned `[%rb]` (with the displacement of a pending `ext`) or `[%rb]+` completes with the bytes
at the address, the lowest one least significant, extended with the sign or with zeros. The post-increment adds
the size to rb, also when rd is rb. Nothing is stored and no flag changes (40_data_transfer.md R153, R154, R156,
R161, R162, R168, R169, R172, R173, R179, R180, R186, R187). -/
def Obligations.LoadResults : Prop :=
  ∀ (s : State) (rd rb : Reg),
    (∀ p ∈ ([(.ldBInd rd rb, .byte, true), (.ldUbInd rd rb, .byte, false), (.ldHInd rd rb, .half, true),
        (.ldUhInd rd rb, .half, false), (.ldWInd rd rb, .word, false)] : List (Instr × Size × Bool)),
      (s.baseAddress rb).toNat % p.2.1.bytes = 0 →
      ∃ t, exec p.1 s = .next t ∧
        t.reg rd = loadedWord p.2.1 p.2.2 (s.numberAt 1 (s.baseAddress rb) p.2.1.bytes) ∧
        ReadFrame [rd] [] [] s t ∧ Advanced s t) ∧
    (∀ p ∈ ([(.ldBPost rd rb, .byte, true), (.ldUbPost rd rb, .byte, false), (.ldHPost rd rb, .half, true),
        (.ldUhPost rd rb, .half, false), (.ldWPost rd rb, .word, false)] : List (Instr × Size × Bool)),
      (s.reg rb).toNat % p.2.1.bytes = 0 →
      ∃ t, exec p.1 s = .next t ∧
        (rd ≠ rb → t.reg rd = loadedWord p.2.1 p.2.2 (s.numberAt 1 (s.reg rb) p.2.1.bytes)) ∧
        t.reg rb = s.reg rb + BitVec.ofNat 32 p.2.1.bytes ∧
        ReadFrame [rd, rb] [] [] s t ∧ Advanced s t)

/-- A load from `[%sp+imm6]` completes whatever the displacement, because SP is word aligned and the displacement is
a multiple of the size; SP is not modified (40_data_transfer.md R152, R163, R170, R174, R181, R188). -/
def Obligations.StackLoadResults : Prop :=
  ∀ (s : State) (rd : Reg) (imm6 : BitVec 6), s.sp.toNat % 4 = 0 →
    ∀ p ∈ ([(.ldBSp rd imm6, .byte, true), (.ldUbSp rd imm6, .byte, false), (.ldHSp rd imm6, .half, true),
        (.ldUhSp rd imm6, .half, false), (.ldWSp rd imm6, .word, false)] : List (Instr × Size × Bool)),
      ∃ t, exec p.1 s = .next t ∧
        t.reg rd = loadedWord p.2.1 p.2.2 (s.numberAt 1 (s.stackAddress p.2.1 imm6) p.2.1.bytes) ∧
        ReadFrame [rd] [] [] s t ∧ Advanced s t

/-- A store to an aligned `[%rb]` (with the displacement of a pending `ext`) or `[%rb]+` completes. In plain memory
the bytes at the address become the low bytes of rs as it was before the instruction, the lowest address the least
significant; every other address reads as before, no flag changes, and only the post-increment writes a
register (40_data_transfer.md R153, R155, R156, R164, R165, R175, R176, R189, R190, R195). That a post-increment store
with rs the same register as rb stores the value before the increment is the spec's decision D21 (assumption log 27). -/
def Obligations.StoreResults : Prop :=
  ∀ (s : State) (rb rs : Reg), s.Inv →
    ∀ p ∈ ([(.stBInd rb rs, .byte, false, s.baseAddress rb), (.stHInd rb rs, .half, false, s.baseAddress rb),
        (.stWInd rb rs, .word, false, s.baseAddress rb), (.stBPost rb rs, .byte, true, s.reg rb),
        (.stHPost rb rs, .half, true, s.reg rb), (.stWPost rb rs, .word, true, s.reg rb)] :
          List (Instr × Size × Bool × Word)),
      p.2.2.2.toNat % p.2.1.bytes = 0 →
      ∃ t, exec p.1 s = .next t ∧
        (s.plainBlock p.2.2.2 p.2.1.bytes →
          (∀ access, t.numberAt access p.2.2.2 p.2.1.bytes = (s.reg rs).toNat % 256 ^ p.2.1.bytes) ∧
            MappedFrame s t) ∧
        SameMemoryExcept (s.addresses p.2.2.2 p.2.1.bytes) s t ∧
        CoreFrame (if p.2.2.1 then [rb] else []) [] [] s t ∧
        (p.2.2.1 = true → t.reg rb = s.reg rb + BitVec.ofNat 32 p.2.1.bytes) ∧ Advanced s t

/-- A store to `[%sp+imm6]` completes whatever the displacement; SP is not modified (40_data_transfer.md R152, R155,
R166, R177, R191). -/
def Obligations.StackStoreResults : Prop :=
  ∀ (s : State) (rs : Reg) (imm6 : BitVec 6), s.Inv →
    ∀ p ∈ ([(.stBSp imm6 rs, .byte), (.stHSp imm6 rs, .half), (.stWSp imm6 rs, .word)] : List (Instr × Size)),
      ∃ t, exec p.1 s = .next t ∧
        (s.plainBlock (s.stackAddress p.2 imm6) p.2.bytes →
          (∀ access, t.numberAt access (s.stackAddress p.2 imm6) p.2.bytes = (s.reg rs).toNat % 256 ^ p.2.bytes) ∧
            MappedFrame s t) ∧
        SameMemoryExcept (s.addresses (s.stackAddress p.2 imm6) p.2.bytes) s t ∧
        CoreFrame [] [] [] s t ∧ Advanced s t

/-- A store has no effect on any address where it meets only ROM, devices or nothing, and in user mode on the window
0x0078000 to 0x007FFFF (20_memory.md R82, R83; the spec's decisions D17, D18 and U8). -/
def Obligations.IneffectiveStores : Prop :=
  ∀ (s : State) (size : Size) (x v : Word),
    (∀ a ∈ s.addresses x size.bytes,
      (mappedByte? a = none ∧ kindAt s.cfg a ≠ .ram) ∨ (0x78000 ≤ a ∧ a ≤ 0x7FFFF ∧ s.userMode = true)) →
    SameMemory s (s.store size x v) ∧ MappedFrame s (s.store size x v)

/-- The write protection of TTBR (10_state.md R46, R47; what other values of TBRP do is the spec's decision D15), for
every store form: a byte store to TBRP enables writes if the byte is 0x59 and disables them otherwise. An aligned store
of a byte, a half word or the word inside TTBR has an effect only while they are enabled; then it replaces its own
bytes, of which bits 27:10 of TTBR are kept; and exactly a store that covers 0x0048137 disables them. -/
def Obligations.TtbrWriteProtocol : Prop :=
  ∀ (s : State) (rb rs : Reg) (imm6 : BitVec 6), 20 ≤ s.cfg.addrBits →
    (∀ p ∈ s.storeForms .byte rb rs imm6, p.2 = 0x0004812D#32 →
      ∃ t, exec p.1 s = .next t ∧ t.ttbr = s.ttbr ∧ (t.ttbrWe = true ↔ (s.reg rs).toNat % 256 = 0x59)) ∧
    (∀ p ∈ s.storeForms .word rb rs imm6, p.2 = 0x00048134#32 →
      ∃ t, exec p.1 s = .next t ∧ t.ttbrWe = false ∧
        t.ttbr = if s.ttbrWe then s.reg rs &&& 0x0FFFFC00#32 else s.ttbr) ∧
    (∀ size, ∀ p ∈ s.storeForms size rb rs imm6, ∀ j < 4, j % size.bytes = 0 → s.byteAddress p.2 0 = 0x0048134 + j →
      ∃ t, exec p.1 s = .next t ∧
        (t.ttbrWe = true ↔ s.ttbrWe = true ∧ j + size.bytes < 4) ∧
        (s.ttbrWe = false → t.ttbr = s.ttbr) ∧
        (s.ttbrWe = true → ∀ k < 32, t.ttbr.getLsbD k =
          (decide (10 ≤ k ∧ k < 28) &&
            if 8 * j ≤ k ∧ k < 8 * (j + size.bytes) then (s.reg rs).getLsbD (k - 8 * j) else s.ttbr.getLsbD k)))

/-- A half word or word access through `[%rb]` or `[%rb]+` whose address is not a multiple of its size takes the address
error exception with its own address, and neither memory, rd, rb nor a flag but IE changes (60_exceptions.md R410,
R421, R423; 20_memory.md R75). -/
def Obligations.MisalignedAccessTraps : Prop :=
  ∀ (s : State) (rd rb rs : Reg), s.stackReady 24 →
    ∀ p ∈ ([(.ldHInd rd rb, 2, s.baseAddress rb), (.ldUhInd rd rb, 2, s.baseAddress rb),
        (.ldWInd rd rb, 4, s.baseAddress rb), (.ldHPost rd rb, 2, s.reg rb), (.ldUhPost rd rb, 2, s.reg rb),
        (.ldWPost rd rb, 4, s.reg rb), (.stHInd rb rs, 2, s.baseAddress rb), (.stWInd rb rs, 4, s.baseAddress rb),
        (.stHPost rb rs, 2, s.reg rb), (.stWPost rb rs, 4, s.reg rb)] : List (Instr × Nat × Word)),
      p.2.2.toNat % p.2.1 ≠ 0 →
      ∃ t, exec p.1 s = .next t ∧ TrapTaken s 24 s.pc none t ∧ t.dbrk = s.dbrk ∧ t.zdiv = s.zdiv ∧
        t.nmiPending = s.nmiPending

/-- Every data access of every instruction but `brk` that makes one is compared with the data break, and what is recorded is
exactly what matched (60_exceptions.md R456): the loads and stores of each size and form (a misaligned one makes no
access and records nothing), the read and the write of the bit operations, `pushn`, `popn`, the two reads of a repeat of
`mac`, the stack accesses of the calls, `ret`, `reti` and `int`, and the two reads of `retd`. Which accesses count is the
spec's decision D30; that those of `retd` do, that those of `brk` do not and so have no place here
(Obligations.DebugInstructions), and that a kind is recorded beside one already recorded and a drawn count goes on, is the
model's choice (assumption log 15). -/
def Obligations.DataBreakArmed : Prop :=
  ∀ (s : State) (rd rb rs : Reg) (imm6 : BitVec 6) (imm3 : BitVec 3) (imm2 : BitVec 2) (d : BitVec 8),
    (∀ size, ∀ p ∈ s.loadForms size rd rb imm6, ∃ t, exec p.1 s = .next t ∧
      (p.2.toNat % size.bytes = 0 → BreakRecorded s [p.2] [] t) ∧ (p.2.toNat % size.bytes ≠ 0 → t.dbrk = s.dbrk)) ∧
    (∀ size, ∀ p ∈ s.storeForms size rb rs imm6, ∃ t, exec p.1 s = .next t ∧
      (p.2.toNat % size.bytes = 0 → BreakRecorded s [] [p.2] t) ∧ (p.2.toNat % size.bytes ≠ 0 → t.dbrk = s.dbrk)) ∧
    (let a := s.baseAddress rb
      let base := Config.debugBase s.cfg
      ∀ p ∈ ([(.btst rb imm3, [a], []), (.bclr rb imm3, [a], [a]), (.bset rb imm3, [a], [a]), (.bnot rb imm3, [a], [a]),
          (.pushn rs, [], (List.range (rs.val + 1)).map fun k => s.sp - BitVec.ofNat 32 (4 * (k + 1))),
          (.popn rd, (List.range (rd.val + 1)).map fun k => s.sp + BitVec.ofNat 32 (4 * k), []),
          (.call d, [], [s.sp - 4#32]), (.callDelayed d, [], [s.sp - 4#32]), (.callReg rb, [], [s.sp - 4#32]),
          (.callRegDelayed rb, [], [s.sp - 4#32]), (.ret, [s.sp], []), (.retDelayed, [s.sp], []),
          (.reti, [s.sp, s.sp + 4#32], []), (.int imm2, [], [s.sp - 4#32, s.sp - 8#32]),
          (.retd, [base + 12#32, base + 8#32], [])] : List (Instr × List Word × List Word)),
        ∃ t, exec p.1 s = .next t ∧ BreakRecorded s p.2.1 p.2.2 t) ∧
    (∀ p1 p2 : Reg, s.cfg.hasMultiplier = true → p1.val = (rs.val + 1) % 16 → p2.val = (rs.val + 2) % 16 →
      s.reg rs ≠ 0#32 → (s.reg p1).toNat % 2 = 0 → (s.reg p2).toNat % 2 = 0 →
      ∃ t, exec (.mac rs) s = .next t ∧ BreakRecorded s [s.reg p1, s.reg p2] [] t)

/-! ### Logic, arithmetic, shifts -/

/-- The eight logic forms complete with the operation bit by bit, on rd and rs, on rs and the zero-extended `ext`
immediate, or on rd and the sign-extended immediate; Z and N describe the result and nothing else changes, C and V
included (41_logic.md R201, R202). -/
def Obligations.LogicResults : Prop :=
  ∀ (s : State) (rd rs : Reg) (sign6 : BitVec 6),
    ∀ p ∈ ([(.andReg rd rs, s.leftOperand rd rs, s.rightOperand rs, fun a b => a && b),
        (.andImm rd sign6, s.reg rd, BitVec.ofInt 32 (s.ext.signed6 sign6), fun a b => a && b),
        (.orReg rd rs, s.leftOperand rd rs, s.rightOperand rs, fun a b => a || b),
        (.orImm rd sign6, s.reg rd, BitVec.ofInt 32 (s.ext.signed6 sign6), fun a b => a || b),
        (.xorReg rd rs, s.leftOperand rd rs, s.rightOperand rs, fun a b => a ^^ b),
        (.xorImm rd sign6, s.reg rd, BitVec.ofInt 32 (s.ext.signed6 sign6), fun a b => a ^^ b),
        (.notReg rd rs, s.reg rd, s.reg rs, fun _ b => !b),
        (.notImm rd sign6, s.reg rd, BitVec.ofInt 32 (s.ext.signed6 sign6), fun _ b => !b)] :
          List (Instr × Word × Word × (Bool → Bool → Bool))),
      ∃ t, exec p.1 s = .next t ∧
        (∀ k < 32, (t.reg rd).getLsbD k = p.2.2.2 (p.2.1.getLsbD k) (p.2.2.1.getLsbD k)) ∧
        (t.psr.getLsbD 1 = true ↔ t.reg rd = 0#32) ∧ t.psr.getLsbD 0 = (t.reg rd).getLsbD 31 ∧
        QuietFrame [rd] [0, 1] [] s t ∧ Advanced s t

/-- The three additions complete with the sum modulo 2^32; C is the carry out of the unsigned sum, V says that the
signed sum is out of range, Z and N describe the result; nothing else changes (42_arithmetic.md R221 to R224,
R226; V and C of `adc` are the spec's decision D2). -/
def Obligations.AdditionResults : Prop :=
  ∀ (s : State) (rd rs : Reg) (imm6 : BitVec 6),
    ∀ p ∈ ([(.addReg rd rs, s.leftOperand rd rs, s.rightOperand rs, 0),
        (.addImm rd imm6, s.reg rd, BitVec.ofNat 32 (s.ext.joined 6 imm6.toNat), 0),
        (.adc rd rs, s.reg rd, s.reg rs, (s.psr.getLsbD 3).toNat)] : List (Instr × Word × Word × Nat)),
      ∃ t, exec p.1 s = .next t ∧
        (t.reg rd).toNat = (p.2.1.toNat + p.2.2.1.toNat + p.2.2.2) % 2 ^ 32 ∧
        (t.psr.getLsbD 3 = true ↔ 2 ^ 32 ≤ p.2.1.toNat + p.2.2.1.toNat + p.2.2.2) ∧
        (t.psr.getLsbD 2 = true ↔ p.2.1.toInt + p.2.2.1.toInt + p.2.2.2 < -2 ^ 31 ∨
          2 ^ 31 ≤ p.2.1.toInt + p.2.2.1.toInt + p.2.2.2) ∧
        (t.psr.getLsbD 1 = true ↔ t.reg rd = 0#32) ∧ t.psr.getLsbD 0 = (t.reg rd).getLsbD 31 ∧
        QuietFrame [rd] [0, 1, 2, 3] [] s t ∧ Advanced s t

/-- The three subtractions and the two comparisons complete; the subtractions leave the difference modulo 2^32 in rd, a
comparison writes no register. C is the borrow, V says that the signed difference is out of range, Z and N
describe the difference; nothing else changes (42_arithmetic.md R221, R222, R227, R228, R230, R231, R232; V
and C of `sbc` are the spec's decision D2). -/
def Obligations.SubtractionResults : Prop :=
  ∀ (s : State) (rd rs : Reg) (imm6 : BitVec 6),
    ∀ p ∈ ([(.subReg rd rs, s.leftOperand rd rs, s.rightOperand rs, 0, true),
        (.subImm rd imm6, s.reg rd, BitVec.ofNat 32 (s.ext.joined 6 imm6.toNat), 0, true),
        (.sbc rd rs, s.reg rd, s.reg rs, (s.psr.getLsbD 3).toNat, true),
        (.cmpReg rd rs, s.leftOperand rd rs, s.rightOperand rs, 0, false),
        (.cmpImm rd imm6, s.reg rd, BitVec.ofInt 32 (s.ext.signed6 imm6), 0, false)] :
          List (Instr × Word × Word × Nat × Bool)),
      ∃ t d, exec p.1 s = .next t ∧
        d = BitVec.ofInt 32 ((p.2.1.toNat : Int) - p.2.2.1.toNat - p.2.2.2.1) ∧
        (p.2.2.2.2 = true → t.reg rd = d) ∧
        (t.psr.getLsbD 3 = true ↔ p.2.1.toNat < p.2.2.1.toNat + p.2.2.2.1) ∧
        (t.psr.getLsbD 2 = true ↔ p.2.1.toInt - p.2.2.1.toInt - p.2.2.2.1 < -2 ^ 31 ∨
          2 ^ 31 ≤ p.2.1.toInt - p.2.2.1.toInt - p.2.2.2.1) ∧
        (t.psr.getLsbD 1 = true ↔ d = 0#32) ∧ t.psr.getLsbD 0 = d.getLsbD 31 ∧
        QuietFrame (if p.2.2.2.2 then [rd] else []) [0, 1, 2, 3] [] s t ∧ Advanced s t

/-- `add %sp,imm10` and `sub %sp,imm10` move SP by four times the immediate modulo 2^32 and change no flag, no other
register and no memory (42_arithmetic.md R225, R229). That they do not arm the NMI is the spec's decision D9
(10_state.md R54; assumption log 22). -/
def Obligations.StackPointerArithmetic : Prop :=
  ∀ (s : State) (imm10 : BitVec 10),
    (∃ t, exec (.addSp imm10) s = .next t ∧ t.sp.toNat = (s.sp.toNat + 4 * imm10.toNat) % 2 ^ 32 ∧
      QuietFrame [] [] [.sp] s t ∧ Advanced s t) ∧
    (∃ t, exec (.subSp imm10) s = .next t ∧ t.sp.toNat = (s.sp.toNat + (2 ^ 32 - 4 * imm10.toNat)) % 2 ^ 32 ∧
      QuietFrame [] [] [.sp] s t ∧ Advanced s t)

/-- The twelve shifts and rotations complete: the count is 8 if its bit 3 is set and its low three bits otherwise; a
right shift divides, a left shift multiplies, the arithmetic right shift divides the signed value rounding
down, the rotations move bit positions modulo 32. Z and N describe the result, nothing else changes, C and V
included (44_shift_rotate.md R281, R282, R283). -/
def Obligations.ShiftResults : Prop :=
  ∀ (s : State) (rd rs : Reg) (imm4 : BitVec 4),
    ∀ q ∈ ([(imm4.toNat, [.srlImm rd imm4, .sllImm rd imm4, .sraImm rd imm4, .slaImm rd imm4, .rrImm rd imm4, .rlImm rd imm4]),
        ((s.reg rs).toNat % 16, [.srlReg rd rs, .sllReg rd rs, .sraReg rd rs, .slaReg rd rs, .rrReg rd rs, .rlReg rd rs])] :
          List (Nat × List Instr)),
      let n := if 8 ≤ q.1 then 8 else q.1
      let v := s.reg rd
      ∀ p ∈ q.2.zip [BitVec.ofNat 32 (v.toNat / 2 ^ n), BitVec.ofNat 32 (v.toNat * 2 ^ n),
          BitVec.ofInt 32 (Int.fdiv v.toInt (2 ^ n)), BitVec.ofNat 32 (v.toNat * 2 ^ n),
          BitVec.ofNat 32 (v.toNat / 2 ^ n + v.toNat % 2 ^ n * 2 ^ (32 - n)),
          BitVec.ofNat 32 (v.toNat * 2 ^ n + v.toNat / 2 ^ (32 - n))],
        ∃ t, exec p.1 s = .next t ∧ t.reg rd = p.2 ∧
          (t.psr.getLsbD 1 = true ↔ p.2 = 0#32) ∧ t.psr.getLsbD 0 = p.2.getLsbD 31 ∧
          QuietFrame [rd] [0, 1] [] s t ∧ Advanced s t

/-! ### Multiplication, step division, multiply-accumulate -/

/-- The four multiplications complete with the exact signed or unsigned product, of the low half words in ALR or of the
words in AHR and ALR; neither operand, no flag and nothing else changes (43_multiply_divide_mac.md R252 to
R256; that the 16-bit forms keep AHR is the spec's decision D13). -/
def Obligations.MultiplicationResults : Prop :=
  ∀ (s : State) (rd rs : Reg), s.cfg.hasMultiplier = true →
    (∃ t, exec (.mltH rd rs) s = .next t ∧
      t.alr.toInt = (((s.reg rd).toNat % 65536 : Nat) : Int).bmod 65536 * (((s.reg rs).toNat % 65536 : Nat) : Int).bmod 65536 ∧
      QuietFrame [] [] [.alr] s t ∧ Advanced s t) ∧
    (∃ t, exec (.mltuH rd rs) s = .next t ∧
      t.alr.toNat = ((s.reg rd).toNat % 65536) * ((s.reg rs).toNat % 65536) ∧
      QuietFrame [] [] [.alr] s t ∧ Advanced s t) ∧
    (∃ t, exec (.mltW rd rs) s = .next t ∧
      (t.ahr.toNat : Int) * 2 ^ 32 + t.alr.toNat = ((s.reg rd).toInt * (s.reg rs).toInt) % 2 ^ 64 ∧
      QuietFrame [] [] [.alr, .ahr] s t ∧ Advanced s t) ∧
    (∃ t, exec (.mltuW rd rs) s = .next t ∧
      t.ahr.toNat * 2 ^ 32 + t.alr.toNat = (s.reg rd).toNat * (s.reg rs).toNat ∧
      QuietFrame [] [] [.alr, .ahr] s t ∧ Advanced s t)

/-- Without the multiplier each of the ten instructions of the option only advances PC and uses up a pending `ext`
(43_multiply_divide_mac.md R250). -/
def Obligations.OptionAbsentIsNop : Prop :=
  ∀ (s : State) (rd rs : Reg) (field : BitVec 4), s.cfg.hasMultiplier = false →
    ∀ i ∈ ([.mltH rd rs, .mltuH rd rs, .mltW rd rs, .mltuW rd rs, .div0s rs, .div0u rs, .div1 rs, .div2s rs,
        .div3s field, .mac rs] : List Instr),
      exec i s = .next { s with pc := s.pc + 2#32, ext := .none }

/-- `div0s` and `div0u` complete: the dividend in ALR is extended into AHR with its sign or with zeros, DS and N
become the signs of dividend and divisor or 0, and a zero divisor raises the zero division exception after these
writes; nothing else changes (43_multiply_divide_mac.md R258, R259). That a zero division raised while one is pending
is merged with it and leaves it as late as it is, is the model's choice (10_state.md R59; assumption log 14). -/
def Obligations.DivisionStart : Prop :=
  ∀ (s : State) (rs : Reg), s.cfg.hasMultiplier = true →
    (∃ t, exec (.div0s rs) s = .next t ∧
      (t.ahr.toNat : Int) = (s.alr.toInt / 2 ^ 32) % 2 ^ 32 ∧
      (t.psr.getLsbD 6 = true ↔ s.alr.toInt < 0) ∧ (t.psr.getLsbD 0 = true ↔ (s.reg rs).toInt < 0) ∧
      (t.zdiv = if s.reg rs = 0#32 ∧ s.zdiv = .none then .raised else s.zdiv) ∧
      QuietFrame [] [0, 6] [.ahr] s { t with zdiv := s.zdiv } ∧ Advanced s t) ∧
    (∃ t, exec (.div0u rs) s = .next t ∧
      t.ahr = 0#32 ∧ t.psr.getLsbD 6 = false ∧ t.psr.getLsbD 0 = false ∧
      (t.zdiv = if s.reg rs = 0#32 ∧ s.zdiv = .none then .raised else s.zdiv) ∧
      QuietFrame [] [0, 6] [.ahr] s { t with zdiv := s.zdiv } ∧ Advanced s t)

/-- `div1`, `div2s` and `div3s` complete. `div1`: with a and b the partial remainder and the divisor as signed 33-bit
numbers, the difference (equal signs DS and N) or the sum becomes the remainder and 1 the quotient bit exactly
when it keeps the sign DS. `div2s`: with DS set, a remainder that is the divisor in magnitude becomes 0 and the
quotient grows by 1. `div3s`: with DS and N different the quotient is negated. Nothing else changes
(43_multiply_divide_mac.md R260, R261, R262; the negation is the spec's decision D19). -/
def Obligations.DivisionSteps : Prop :=
  ∀ (s : State) (rs : Reg) (field : BitVec 4), s.cfg.hasMultiplier = true →
    let ds := (s.psr.getLsbD 6).toNat
    let n := (s.psr.getLsbD 0).toNat
    let shifted : Nat := (2 * s.ahr.toNat + s.alr.toNat / 2 ^ 31) % 2 ^ 32
    let a : Int := (shifted : Int) - ds * 2 ^ 32
    let b : Int := ((s.reg rs).toNat : Int) - n * 2 ^ 32
    let r : Int := if ds = n then a - b else a + b
    let keeps : Prop := (r % 2 ^ 33 ≥ 2 ^ 32) ↔ ds = 1
    (∃ t, exec (.div1 rs) s = .next t ∧
      (keeps → (t.ahr.toNat : Int) = r % 2 ^ 32 ∧ t.alr.toNat = (2 * s.alr.toNat) % 2 ^ 32 + 1) ∧
      (¬keeps → t.ahr.toNat = shifted ∧ t.alr.toNat = (2 * s.alr.toNat) % 2 ^ 32) ∧
      QuietFrame [] [] [.alr, .ahr] s t ∧ Advanced s t) ∧
    (∃ t, exec (.div2s rs) s = .next t ∧
      (ds = 1 ∧ ((s.ahr.toNat : Int) + (if n = 0 then ((s.reg rs).toNat : Int) else -(s.reg rs).toNat)) % 2 ^ 32 = 0 →
        t.ahr = 0#32 ∧ t.alr.toNat = (s.alr.toNat + 1) % 2 ^ 32) ∧
      (¬(ds = 1 ∧ ((s.ahr.toNat : Int) + (if n = 0 then ((s.reg rs).toNat : Int) else -(s.reg rs).toNat)) % 2 ^ 32 = 0) →
        t.ahr = s.ahr ∧ t.alr = s.alr) ∧
      QuietFrame [] [] [.alr, .ahr] s t ∧ Advanced s t) ∧
    (∃ t, exec (.div3s field) s = .next t ∧
      (ds ≠ n → (t.alr.toNat : Int) = -(s.alr.toNat : Int) % 2 ^ 32) ∧ (ds = n → t.alr = s.alr) ∧
      QuietFrame [] [] [.alr] s t ∧ Advanced s t)

/-- `div0u` and 32 times `div1` with a divisor that is not 0 leave the unsigned quotient in ALR and the remainder in AHR
(43_multiply_divide_mac.md R257, R259, R260). -/
def Obligations.UnsignedDivision : Prop :=
  ∀ (s : State) (rs : Reg), s.cfg.hasMultiplier = true → s.reg rs ≠ 0#32 →
    ∃ t, execAll (.div0u rs :: List.replicate 32 (.div1 rs)) s = .next t ∧
      t.alr.toNat = s.alr.toNat / (s.reg rs).toNat ∧ t.ahr.toNat = s.alr.toNat % (s.reg rs).toNat ∧
      QuietFrame [] [0, 6] [.alr, .ahr] s t ∧ t.pc = s.pc + 66#32

/-- `div0s`, 32 times `div1`, `div2s` and `div3s` with a divisor that is not 0 leave the quotient rounded toward 0 in
ALR and the remainder, with the sign of the dividend, in AHR (43_multiply_divide_mac.md R257, R263); the one
quotient that does not fit, 2^31, wraps. That `div3s` negates is the spec's decision D19. -/
def Obligations.SignedDivision : Prop :=
  ∀ (s : State) (rs : Reg) (field : BitVec 4), s.cfg.hasMultiplier = true → s.reg rs ≠ 0#32 →
    ∃ t, execAll (.div0s rs :: (List.replicate 32 (.div1 rs) ++ [.div2s rs, .div3s field])) s = .next t ∧
      t.alr = BitVec.ofInt 32 (s.alr.toInt.tdiv (s.reg rs).toInt) ∧
      t.ahr = BitVec.ofInt 32 (s.alr.toInt.tmod (s.reg rs).toInt) ∧
      QuietFrame [] [0, 6] [.alr, .ahr] s t ∧ t.pc = s.pc + 70#32

/-- `mac`: with the counter at 0 it ends at the next address and changes nothing else. Otherwise, on two even pointers,
one repeat adds the exact signed product of the two half words to the 64-bit accumulator modulo 2^64, sets MO if
the exact sum is out of range and never clears it, moves both pointers by 2 and the counter down by 1, and PC
stays. On an odd pointer it takes the address error exception and nothing of the repeat happens
(43_multiply_divide_mac.md R270, R271, R272). The spec's decisions: MO on the exact sum out of range with the wrapped
accumulator (decision D20), the factor at rs + 1 read before the one at rs + 2 (decision D25). That a repeat is a step of
its own, which the step with counter 0 ends, is read from the spec and its decision D28 (assumption log 24), and so is
that a pending `ext` stays until that step, when the instruction completes (10_state.md R50; assumption log 32). -/
def Obligations.MacRepeats : Prop :=
  ∀ (s : State) (rs p1 p2 : Reg), s.cfg.hasMultiplier = true →
    p1.val = (rs.val + 1) % 16 → p2.val = (rs.val + 2) % 16 →
    (s.reg rs = 0#32 → exec (.mac rs) s = .next { s with pc := s.pc + 2#32, ext := .none }) ∧
    (s.reg rs ≠ 0#32 → (s.reg p1).toNat % 2 = 0 → (s.reg p2).toNat % 2 = 0 →
      ∃ t acc, exec (.mac rs) s = .next t ∧
        acc = ((s.ahr.toNat * 2 ^ 32 + s.alr.toNat : Nat) : Int).bmod (2 ^ 64) +
          ((s.numberAt 1 (s.reg p1) 2 : Nat) : Int).bmod 65536 * ((s.numberAt 2 (s.reg p2) 2 : Nat) : Int).bmod 65536 ∧
        (t.ahr.toNat : Int) * 2 ^ 32 + t.alr.toNat = acc % 2 ^ 64 ∧
        (t.psr.getLsbD 7 = true ↔ s.psr.getLsbD 7 = true ∨ acc < -2 ^ 63 ∨ 2 ^ 63 ≤ acc) ∧
        t.reg p1 = s.reg p1 + 2#32 ∧ t.reg p2 = s.reg p2 + 2#32 ∧ t.reg rs = s.reg rs - 1#32 ∧
        t.pc = s.pc ∧ t.ext = s.ext ∧ t.delay = s.delay ∧ ReadFrame [rs, p1, p2] [7] [.alr, .ahr] s t) ∧
    (s.reg rs ≠ 0#32 → (s.reg p1).toNat % 2 = 1 ∨ (s.reg p2).toNat % 2 = 1 → s.stackReady 24 →
      ∃ t, exec (.mac rs) s = .next t ∧ TrapTaken s 24 s.pc none t ∧ t.dbrk = s.dbrk ∧ t.zdiv = s.zdiv ∧
        t.nmiPending = s.nmiPending)

/-! ### Bit operations, push and pop -/

/-- The four bit operations complete on any address. `btst` sets Z exactly when the bit is 0 and stores nothing; `bclr`,
`bset` and `bnot` write the byte back with that one bit cleared, set or reversed, to plain memory and to the registers
that lie in memory, with the write protection of TTBR and, for the debug registers, in debugging mode alone; every other
address reads as before. No general register and no other flag changes (45_bit_operation.md R300, R302, R303, R305 to
R308; 10_state.md R46 to R49, R52, R53). What other values of TBRP do, that user mode writes no debug register and that
the DSR is plainly written are the spec's decisions D15, D17 and D16; which places these registers have byte by byte and
their unused bits are the model's reading (assumption log 9, 10, 11). -/
def Obligations.BitOperationResults : Prop :=
  ∀ (s : State) (rb : Reg) (imm3 : BitVec 3), s.Inv →
    let a := s.byteAddress (s.baseAddress rb) 0
    (∃ t, exec (.btst rb imm3) s = .next t ∧
      (t.psr.getLsbD 1 = true ↔ (s.readByte 1 a).getLsbD imm3.toNat = false) ∧
      ReadFrame [] [1] [] s t ∧ Advanced s t) ∧
    (∀ p ∈ ([(.bclr rb imm3, fun _ => false), (.bset rb imm3, fun _ => true), (.bnot rb imm3, fun b => !b)] :
        List (Instr × (Bool → Bool))),
      ∃ t, exec p.1 s = .next t ∧
        (s.plainRam a → ∀ access, ∀ k < 8, (t.readByte access a).getLsbD k =
          if k = imm3.toNat then p.2 ((s.readByte access a).getLsbD k) else (s.readByte access a).getLsbD k) ∧
        (∃ b : Byte, MappedByteWritten s a b t ∧ ∀ k < 8, b.getLsbD k =
          if k = imm3.toNat then p.2 ((s.readByte 1 a).getLsbD k) else (s.readByte 1 a).getLsbD k) ∧
        SameMemoryExcept [a] s t ∧ CoreFrame [] [] [] s t ∧ (s.plainRam a → MappedFrame s t) ∧ Advanced s t)

/-- `pushn %rs` completes: SP goes down by four times the number of registers; in plain memory R0 lies at the new SP and
each register of the group four bytes above the one before it; no register and no flag changes and every other
address reads as before (46_push_pop.md R311, R312). -/
def Obligations.PushResults : Prop :=
  ∀ (s : State) (rs : Reg), s.Inv →
    let size := 4 * (rs.val + 1)
    let base := s.sp - BitVec.ofNat 32 size
    ∃ t, exec (.pushn rs) s = .next t ∧ t.sp = base ∧
      (s.plainBlock base size →
        (∀ (r : Reg) (access : Nat), r.val ≤ rs.val →
          t.numberAt access (base + BitVec.ofNat 32 (4 * r.val)) 4 = (s.reg r).toNat) ∧ MappedFrame s t) ∧
      SameMemoryExcept (s.addresses base size) s t ∧ CoreFrame [] [] [.sp] s t ∧ Advanced s t

/-- `popn %rd` completes: R0 up to rd get the words from SP upward and SP goes up by four times their number; the higher
registers, the flags and memory stay (46_push_pop.md R311, R313). -/
def Obligations.PopResults : Prop :=
  ∀ (s : State) (rd : Reg),
    ∃ t, exec (.popn rd) s = .next t ∧ t.sp = s.sp + BitVec.ofNat 32 (4 * (rd.val + 1)) ∧
      (∀ r : Reg, r.val ≤ rd.val →
        (t.reg r).toNat = s.numberAt (1 + r.val) (s.sp + BitVec.ofNat 32 (4 * r.val)) 4) ∧
      ReadFrame ((List.range (rd.val + 1)).map (Fin.ofNat 16)) [] [.sp] s t ∧ Advanced s t

/-- `popn` after `pushn` of the same group in plain memory gives every register and SP back (46_push_pop.md R310). -/
def Obligations.PopUndoesPush : Prop :=
  ∀ (s t u : State) (r : Reg),
    s.plainBlock (s.sp - BitVec.ofNat 32 (4 * (r.val + 1))) (4 * (r.val + 1)) →
    exec (.pushn r) s = .next t → exec (.popn r) t = .next u →
    (∀ q, u.reg q = s.reg q) ∧ u.sp = s.sp ∧ u.psr = s.psr

/-! ### Branches -/

/-- The ten conditional branches, `jp sign8` and `jp %rb` complete, plain and delayed. Plain: PC becomes the target if the
condition holds and the next address otherwise. Delayed: PC advances and DELAY holds the target or the address
after the delayed instruction. A pending `ext` is used up; nothing else changes (47_branch.md R321, R322, R323, R325,
R330 to R340, R346). -/
def Obligations.BranchResults : Prop :=
  ∀ (s : State) (d : BitVec 8) (rb : Reg),
    let n := s.psr.getLsbD 0
    let z := s.psr.getLsbD 1
    let v := s.psr.getLsbD 2
    let c := s.psr.getLsbD 3
    let relative := s.pc + BitVec.ofInt 32 (s.ext.displacement d)
    let absolute := BitVec.ofNat 32 ((s.reg rb).toNat / 2 * 2)
    ∀ p ∈ ([(.jrgt d, .jrgtDelayed d, z = false ∧ n = v, relative), (.jrge d, .jrgeDelayed d, n = v, relative),
        (.jrlt d, .jrltDelayed d, n ≠ v, relative), (.jrle d, .jrleDelayed d, z = true ∨ n ≠ v, relative),
        (.jrugt d, .jrugtDelayed d, z = false ∧ c = false, relative), (.jruge d, .jrugeDelayed d, c = false, relative),
        (.jrult d, .jrultDelayed d, c = true, relative), (.jrule d, .jruleDelayed d, z = true ∨ c = true, relative),
        (.jreq d, .jreqDelayed d, z = true, relative), (.jrne d, .jrneDelayed d, z = false, relative),
        (.jp d, .jpDelayed d, True, relative), (.jpReg rb, .jpRegDelayed rb, True, absolute)] :
          List (Instr × Instr × Prop × Word)),
      (p.2.2.1 → exec p.1 s = .next { s with pc := p.2.2.2, ext := .none } ∧
        exec p.2.1 s = .next { s with pc := s.pc + 2#32, ext := .none, delay := some p.2.2.2 }) ∧
      (¬p.2.2.1 → exec p.1 s = .next { s with pc := s.pc + 2#32, ext := .none } ∧
        exec p.2.1 s = .next { s with pc := s.pc + 2#32, ext := .none, delay := some (s.pc + 4#32) })

/-- After `cmp` of two operands each of the ten conditional branches is taken exactly when its relation holds between
them, as signed or as unsigned numbers (47_branch.md R321, 42_arithmetic.md R233). -/
def Obligations.BranchAfterCompare : Prop :=
  ∀ (s t : State) (rd rs : Reg) (d : BitVec 8), s.ext = .none → exec (.cmpReg rd rs) s = .next t →
    let a := s.reg rd
    let b := s.reg rs
    ∀ p ∈ ([(.jrgt d, b.toInt < a.toInt), (.jrge d, b.toInt ≤ a.toInt), (.jrlt d, a.toInt < b.toInt),
        (.jrle d, a.toInt ≤ b.toInt), (.jrugt d, b.toNat < a.toNat), (.jruge d, b.toNat ≤ a.toNat),
        (.jrult d, a.toNat < b.toNat), (.jrule d, a.toNat ≤ b.toNat), (.jreq d, a = b), (.jrne d, a ≠ b)] :
          List (Instr × Prop)),
      ∃ u, exec p.1 t = .next u ∧
        (p.2 → u.pc = t.pc + BitVec.ofInt 32 ((2 * (d.toNat : Int)).bmod 512)) ∧ (¬p.2 → u.pc = t.pc + 2#32)

/-- The four calls complete: the return address, PC + 2 or PC + 4 for the delayed forms, is pushed, in plain memory as
the four bytes from the new SP upward; then PC becomes the target, or PC advances and DELAY holds it; no
register but SP and no flag changes and every other address reads as before (47_branch.md R322, R325, R329, R341, R345). -/
def Obligations.CallResults : Prop :=
  ∀ (s : State) (d : BitVec 8) (rb : Reg), s.Inv →
    let relative := s.pc + BitVec.ofInt 32 (s.ext.displacement d)
    let absolute := BitVec.ofNat 32 ((s.reg rb).toNat / 2 * 2)
    ∀ p ∈ ([(.call d, false, relative), (.callDelayed d, true, relative), (.callReg rb, false, absolute),
        (.callRegDelayed rb, true, absolute)] : List (Instr × Bool × Word)),
      ∃ t, exec p.1 s = .next t ∧ t.sp = s.sp - 4#32 ∧
        (s.plainBlock (s.sp - 4#32) 4 →
          (∀ access, t.numberAt access t.sp 4 = (s.pc + if p.2.1 then 4#32 else 2#32).toNat) ∧ MappedFrame s t) ∧
        (t.pc = if p.2.1 then s.pc + 2#32 else p.2.2) ∧ (t.delay = if p.2.1 then some p.2.2 else s.delay) ∧
        t.ext = .none ∧ SameMemoryExcept (s.addresses (s.sp - 4#32) 4) s t ∧
        CoreFrame [] [] [.sp] s t

/-- `ret` and `ret.d` complete: the word at SP without its bit 0 is the target, SP goes up by 4, and nothing else
changes; the delayed form leaves the target in DELAY (47_branch.md R325, R329, R350). -/
def Obligations.ReturnResults : Prop :=
  ∀ s : State,
    let target := BitVec.ofNat 32 (s.numberAt 1 s.sp 4 / 2 * 2)
    (∃ t, exec .ret s = .next t ∧ t.sp = s.sp + 4#32 ∧ t.pc = target ∧ t.delay = s.delay ∧ t.ext = .none ∧
      ReadFrame [] [] [.sp] s t) ∧
    (∃ t, exec .retDelayed s = .next t ∧ t.sp = s.sp + 4#32 ∧ t.pc = s.pc + 2#32 ∧ t.delay = some target ∧
      t.ext = .none ∧ ReadFrame [] [] [.sp] s t)

/-- `int imm2` completes on a stack in plain memory, in both modes: the trap with the vector at TTBR + 48 + 4 × imm2 is
taken with return address PC + 2 (47_branch.md R353, 60_exceptions.md R410, R425). -/
def Obligations.SoftwareExceptionTaken : Prop :=
  ∀ (s : State) (imm2 : BitVec 2), s.stackReady (48 + 4 * imm2.toNat) →
    ∃ t, exec (.int imm2) s = .next t ∧ TrapTaken s (48 + 4 * imm2.toNat) (s.pc + 2#32) none t ∧
      t.nmiPending = s.nmiPending ∧ t.zdiv = s.zdiv

/-- `reti` completes: PSR gets the implemented bits of the word at SP, PC the word above it without its bit 0, SP goes
up by 8, and nothing else changes (47_branch.md R351, 60_exceptions.md R411). -/
def Obligations.TrapReturnResults : Prop :=
  ∀ s : State, ∃ t, exec .reti s = .next t ∧
    t.psr = BitVec.ofNat 32 (s.numberAt 1 s.sp 4) &&& 0x00000FDF#32 ∧
    t.pc.toNat = s.numberAt 2 (s.sp + 4#32) 4 / 2 * 2 ∧ t.sp = s.sp + 8#32 ∧ t.ext = .none ∧
    t.delay = s.delay ∧ ReadFrame [] (List.range 32) [.sp] s t

/-- `reti` right after any trap of 60_exceptions.md R410, `int` included, goes to the return address that the trap saved and
gives back the PSR with IE and IL, the SP and the registers of the state in which the trap was taken (60_exceptions.md
R411, R471). -/
def Obligations.ReturnUndoesTrap : Prop :=
  ∀ (s t u : State) (offset : Nat) (ret : Word) (level : Option (BitVec 4)), s.Inv → ret.toNat % 2 = 0 →
    TrapTaken s offset ret level t →
    exec .reti t = .next u → u.pc = ret ∧ u.psr = s.psr ∧ u.sp = s.sp ∧ ∀ r, u.reg r = s.reg r

/-- `brk` completes: in user mode it takes the debugging exception with saved PC + 2 and sets BKF; in debugging mode it
only advances PC (47_branch.md R354, 60_exceptions.md R450; the spec's decision D24). That the accesses of `brk` do not arm
the data break is the model's choice (assumption log 15). `retd` completes in both modes: R0
and PC come back from the two fixed words, DM is cleared, the shadow is set and nothing else changes, but that in user
mode its two reads may arm the data break (47_branch.md R352; in user mode the spec's decision D23; what they arm is
Obligations.DataBreakArmed; assumption log 15). -/
def Obligations.DebugInstructions : Prop :=
  ∀ s : State,
    (s.userMode = true → s.debugReady →
      ∃ t, exec .brk s = .next t ∧ DebugTaken s (s.pc + 2#32) 0x80#8 0#8 t ∧ t.dbrk = s.dbrk) ∧
    (s.userMode = false → exec .brk s = .next { s with pc := s.pc + 2#32, ext := .none }) ∧
    (∃ t, exec .retd s = .next t ∧
      (t.reg 0).toNat = s.numberAt 1 (Config.debugBase s.cfg + 12#32) 4 ∧ (∀ r, r ≠ 0 → t.reg r = s.reg r) ∧
      t.pc.toNat = s.numberAt 2 (Config.debugBase s.cfg + 8#32) 4 / 2 * 2 ∧
      t = { s with
        regs := t.regs, pc := t.pc, dcr := s.dcr &&& 0xFE#8, retdShadow := true, ext := .none, dbrk := t.dbrk } ∧
      (s.userMode = false → t.dbrk = s.dbrk))

/-! ### System, ext, scan, swap, mirror -/

/-- `nop`, `halt`, `slp` and `ext` complete and change what the spec names and nothing else: RUN for `halt` and `slp`,
the pending prefixes for `ext`, of which the first and the last stay (48_system_ext_misc.md R370 to R375). -/
def Obligations.SystemInstructions : Prop :=
  ∀ (s : State) (imm13 : BitVec 13),
    exec .nop s = .next { s with pc := s.pc + 2#32, ext := .none } ∧
    exec .halt s = .next { s with pc := s.pc + 2#32, ext := .none, run := .halted } ∧
    exec .slp s = .next { s with pc := s.pc + 2#32, ext := .none, run := .sleeping } ∧
    (s.ext = .none → exec (.ext imm13) s = .next { s with pc := s.pc + 2#32, ext := .one imm13 }) ∧
    (∀ e1, s.ext = .one e1 → exec (.ext imm13) s = .next { s with pc := s.pc + 2#32, ext := .two e1 imm13 }) ∧
    (∀ e1 e2, s.ext = .two e1 e2 → exec (.ext imm13) s = .next { s with pc := s.pc + 2#32, ext := .two e1 imm13 })

/-- `scan0` and `scan1` complete with the number of bits, from bit 31 down to bit 24, before the first 0 or 1, which is 8
if there is none; C says that there is none, Z that it is bit 31, V and N are 0, nothing else changes
(48_system_ext_misc.md R380, R381, R382). -/
def Obligations.ScanResults : Prop :=
  ∀ (s : State) (rd rs : Reg),
    ∀ p ∈ ([(.scan0 rd rs, false), (.scan1 rd rs, true)] : List (Instr × Bool)),
      ∃ t n, exec p.1 s = .next t ∧ n ≤ 8 ∧ (t.reg rd).toNat = n ∧
        (∀ k < n, (s.reg rs).getLsbD (31 - k) = !p.2) ∧ (n < 8 → (s.reg rs).getLsbD (31 - n) = p.2) ∧
        (t.psr.getLsbD 3 = true ↔ n = 8) ∧ t.psr.getLsbD 2 = false ∧ (t.psr.getLsbD 1 = true ↔ n = 0) ∧
        t.psr.getLsbD 0 = false ∧ QuietFrame [rd] [0, 1, 2, 3] [] s t ∧ Advanced s t

/-- `swap` and `mirror` complete: `swap` moves each byte to the opposite place, `mirror` reverses the bits inside each
byte; no flag and nothing else changes (48_system_ext_misc.md R384, R390, R391). -/
def Obligations.SwapMirrorResults : Prop :=
  ∀ (s : State) (rd rs : Reg),
    (∃ t, exec (.swap rd rs) s = .next t ∧
      (∀ j < 4, ∀ k < 8, (t.reg rd).getLsbD (8 * j + k) = (s.reg rs).getLsbD (8 * (3 - j) + k)) ∧
      QuietFrame [rd] [] [] s t ∧ Advanced s t) ∧
    (∃ t, exec (.mirror rd rs) s = .next t ∧
      (∀ j < 4, ∀ k < 8, (t.reg rd).getLsbD (8 * j + k) = (s.reg rs).getLsbD (8 * j + 7 - k)) ∧
      QuietFrame [rd] [] [] s t ∧ Advanced s t)

/-! ### Rules over all instructions -/

/-- The table of PSR writes: an instruction that does not take the address error exception changes only the PSR bits of
its row, with the zeros the row prints; a trap clears IE and changes only IL beside it, and only for a maskable
interrupt; the debugging exception changes none; reset clears all (10_state.md R62). -/
def Obligations.FlagTable : Prop :=
  (∀ (i : Instr) (s t : State) (k : Nat), exec i s = .next t → t ≠ s.addressError → k ∉ i.flagRow →
    t.psr.getLsbD k = s.psr.getLsbD k) ∧
  (∀ (i : Instr) (s t : State) (k : Nat), exec i s = .next t → s.cfg.hasMultiplier = true → k ∈ i.zeroRow →
    t.psr.getLsbD k = false) ∧
  (∀ (rs : Reg) (s t : State), exec (.mac rs) s = .next t → s.psr.getLsbD 7 = true → t.psr.getLsbD 7 = true) ∧
  (∀ (s : State) (agent : Agent) (offset ret : Word) (level : Option (BitVec 4)) (k : Nat), k < 32 →
    (s.trapEntry agent offset ret level).psr.getLsbD k =
      if k = 4 then false else if 8 ≤ k ∧ k < 12 then (level.getD (levelOf s.psr)).getLsbD (k - 8) else s.psr.getLsbD k) ∧
  (∀ (s : State) (ret : Word) (causes causes2 : Byte), (s.debugEntry ret causes causes2).psr = s.psr) ∧
  (∀ (s : State) (kind : ResetKind), (s.resetProcessing kind).psr = 0#32)

/-- What the hidden state becomes in every instruction: only `ext` leaves a new prefix pending and only a `mac` with
repeats left leaves the pending one as it is, only `ld.w %sp,%rs` arms the NMI, only `retd` sets its shadow, only the
`.d` branches leave a delayed branch pending and all fifteen do, only `brk` enters and only `retd` leaves debugging
mode, and no instruction touches NMI_PENDING, BUS_RELEASED or the parameters (10_state.md R50, R51, R54, R55, R56,
R58, R60). That `add %sp` and `sub %sp` do not arm the NMI is the spec's decision D9; that a `mac` with repeats left
is not complete and so keeps the `ext` is the model's reading of R50 (assumption log 32). -/
def Obligations.HiddenStateWriters : Prop :=
  ∀ (i : Instr) (s t : State), exec i s = .next t →
    (t.ext ≠ .none → (∃ imm13, i = .ext imm13) ∨ ∃ rs, i = .mac rs ∧ s.reg rs ≠ 0#32 ∧ t.ext = s.ext) ∧
    (t.nmiArmed = true ↔ s.nmiArmed = true ∨ ∃ rs, i = .ldWToSpecial .sp rs) ∧
    (t.retdShadow = true ↔ s.retdShadow = true ∨ i = .retd) ∧
    (i.isDelayedBranch = true → t.delay.isSome) ∧ (i.isDelayedBranch = false → t.delay = s.delay) ∧
    (t.userMode = true ↔ (s.userMode = true ∧ i ≠ .brk) ∨ i = .retd) ∧
    t.nmiPending = s.nmiPending ∧ t.busReleased = s.busReleased ∧ t.cfg = s.cfg

/-- An instruction that cannot be extended does the same with and without a pending `ext`, and it leaves none pending,
but for a `mac` with repeats left, which keeps the `ext` and with it the trap mask until it completes (30_encoding.md
R127, R128; 10_state.md R50; assumption log 32). -/
def Obligations.UnextendableIgnorePrefix : Prop :=
  ∀ (i : Instr) (s : State), i.usesPrefix = false →
    ∃ t, exec i s = .next t ∧ exec i { s with ext := .none } = .next { t with ext := .none } ∧
      (t.ext = .none ∨ ∃ rs, i = .mac rs ∧ s.cfg.hasMultiplier = true ∧ s.reg rs ≠ 0#32 ∧ t.ext = s.ext)

/-- The registers that lie in memory, read and written. A load reads 0 at TBRP, and at TTBR, DCR, DSR, IBAR0 to IBAR2
and DBAR the bytes of the register, in both modes (10_state.md R46 to R49, R52, R53; that TBRP reads as 0 is the
spec's decision D15). In user mode no instruction changes the debug registers, but for the status bit and DM that
`brk` sets and DM that `retd` clears (20_memory.md R82, 10_state.md R48; that the store is ignored is the spec's
decision D17). In debugging mode every aligned store, of each size and form, puts its bytes into the debug registers
that lie at its addresses: DCR takes bits 6 to 1 and DM is read-only, DSR takes the byte, IBAR0 to IBAR2 take bits 27
to 1, DBAR bits 27 to 0 (10_state.md R48, R49, R52, R53; the DSR is plainly written by the spec's decision D16; that
the other bits of the DCR and DSR bytes are 0 is the model's choice, assumption log 11, and that a store of several
bytes acts byte by byte is read from the spec, assumption log 10). -/
def Obligations.DebugRegistersGuarded : Prop :=
  (∀ (i : Instr) (s t : State), s.userMode = true → exec i s = .next t →
    t.dcr &&& 0xFE#8 = s.dcr &&& 0xFE#8 ∧ t.dcr2 = s.dcr2 ∧ t.dsr2 = s.dsr2 ∧ t.ibar0 = s.ibar0 ∧ t.ibar1 = s.ibar1 ∧
      t.ibar2 = s.ibar2 ∧ t.dbar = s.dbar ∧ (i ≠ .brk → t.dsr = s.dsr)) ∧
  (∀ (s : State) (rb rs : Reg) (imm6 : BitVec 6) (size : Size), s.userMode = false →
    ∀ p ∈ s.storeForms size rb rs imm6, p.2.toNat % size.bytes = 0 →
      ∃ t, exec p.1 s = .next t ∧
        ∀ i < size.bytes,
          let a := s.byteAddress p.2 i
          let b : Byte := (s.reg rs).extractLsb' (8 * i) 8
          (a = 0x0078000 → t.dcr = (b &&& 0x7E#8) ||| (s.dcr &&& 0x01#8)) ∧ (a = 0x0078002 → t.dsr = b) ∧
          (a = 0x0078010 → t.dcr2 = b &&& 0x3F#8) ∧ (a = 0x0078012 → t.dsr2 = b &&& 0x01#8) ∧
          ∀ j < 4, ∀ k < 8,
            (a = 0x0078004 + j → t.ibar0.getLsbD (8 * j + k) = (b.getLsbD k && decide (1 ≤ 8 * j + k ∧ 8 * j + k < 28))) ∧
            (a = 0x0078008 + j → t.ibar1.getLsbD (8 * j + k) = (b.getLsbD k && decide (1 ≤ 8 * j + k ∧ 8 * j + k < 28))) ∧
            (a = 0x0078014 + j → t.ibar2.getLsbD (8 * j + k) = (b.getLsbD k && decide (1 ≤ 8 * j + k ∧ 8 * j + k < 28))) ∧
            (a = 0x007800C + j → t.dbar.getLsbD (8 * j + k) = (b.getLsbD k && decide (8 * j + k < 28)))) ∧
  (∀ (s : State) (access : Nat),
    s.readByte access 0x004812D = 0#8 ∧ s.readByte access 0x0078000 = s.dcr ∧ s.readByte access 0x0078002 = s.dsr ∧
    s.readByte access 0x0078010 = s.dcr2 ∧ s.readByte access 0x0078012 = s.dsr2 ∧
    ∀ j < 4, s.readByte access (0x0048134 + j) = s.ttbr.extractLsb' (8 * j) 8 ∧
      s.readByte access (0x0078004 + j) = s.ibar0.extractLsb' (8 * j) 8 ∧
      s.readByte access (0x0078008 + j) = s.ibar1.extractLsb' (8 * j) 8 ∧
      s.readByte access (0x007800C + j) = s.dbar.extractLsb' (8 * j) 8 ∧
      s.readByte access (0x0078014 + j) = s.ibar2.extractLsb' (8 * j) 8)
end

