-- ==== Sys2Proof/Laws/Memory.lean ====
section
/-! SUPPORT. Laws of memory: read after write, and the canonical form kept by every write. -/

namespace Sys2Proof.Machine

/-- A listed byte reads back and every other address reads as before. -/
theorem Memory.read_insert (m : Memory) (a a' : Nat) (b : Byte) :
    Memory.read (m.insert a b) a' = if a' = a then b else Memory.read m a' := by
  induction m with
  | nil => simp [Memory.insert, Memory.read]
  | cons c rest ih =>
    obtain ⟨c1, c2⟩ := c
    unfold Memory.insert
    split
    · simp [Memory.read]
    · split
      · next h => subst h; simp only [Memory.read]; split <;> rfl
      · next h =>
        simp only [Memory.read, ih]
        by_cases h1 : a' = c1
        · subst h1; simp [Ne.symm h]
        · simp [h1]

/-- A removed address reads as unlisted and every other address reads as before. -/
theorem Memory.read_remove (m : Memory) (a a' : Nat) :
    Memory.read (m.filter fun c => c.1 != a) a' = if a' = a then unlistedByte else Memory.read m a' := by
  induction m with
  | nil => simp [Memory.read]
  | cons c rest ih =>
    obtain ⟨c1, c2⟩ := c
    by_cases h : c1 = a
    · subst h
      simp only [List.filter_cons, bne_self_eq_false, Bool.false_eq_true, if_false, ih, Memory.read]
      by_cases h' : a' = c1 <;> simp [h']
    · simp only [List.filter_cons, bne_iff_ne, ne_eq, h, not_false_eq_true, if_true, Memory.read, ih]
      by_cases h1 : a' = c1
      · subst h1; simp [h]
      · simp [h1]

/-- A written byte reads back and every other address reads as before. -/
theorem Memory.read_write (m : Memory) (a a' : Nat) (b : Byte) :
    Memory.read (m.write a b) a' = if a' = a then b else Memory.read m a' := by
  unfold Memory.write
  split
  · next h => rw [Memory.read_remove, h]
  · exact Memory.read_insert m a a' b

/-- The canonical form of a memory that lists something. -/
theorem Memory.wfFrom_cons {low : Nat} {a : Nat} {b : Byte} {rest : Memory} :
    Memory.wfFrom low ((a, b) :: rest) = true ↔
      low ≤ a ∧ a < 2 ^ 28 ∧ b ≠ unlistedByte ∧ Memory.wfFrom (a + 1) rest = true := by
  simp only [Memory.wfFrom, Bool.and_eq_true, decide_eq_true_eq, and_assoc]

/-- A canonical memory is canonical from every lower bound. -/
theorem Memory.wfFrom_weaken {low low' : Nat} {m : Memory} (h : low' ≤ low)
    (hm : Memory.wfFrom low m = true) : Memory.wfFrom low' m = true := by
  cases m with
  | nil => rfl
  | cons c rest =>
    obtain ⟨h1, h2⟩ := Memory.wfFrom_cons.mp hm
    exact Memory.wfFrom_cons.mpr ⟨h.trans h1, h2⟩

/-- Listing a byte inside the space keeps the canonical form. -/
theorem Memory.wfFrom_insert {low : Nat} {m : Memory} {a : Nat} {b : Byte} (hl : low ≤ a)
    (ha : a < 2 ^ 28) (hb : b ≠ unlistedByte) (hm : Memory.wfFrom low m = true) :
    Memory.wfFrom low (m.insert a b) = true := by
  induction m generalizing low with
  | nil => exact Memory.wfFrom_cons.mpr ⟨hl, ha, hb, rfl⟩
  | cons c rest ih =>
    obtain ⟨c1, c2⟩ := c
    obtain ⟨h1, h2, h3, h4⟩ := Memory.wfFrom_cons.mp hm
    unfold Memory.insert
    split
    · next h => exact Memory.wfFrom_cons.mpr ⟨hl, ha, hb, Memory.wfFrom_cons.mpr ⟨h, h2, h3, h4⟩⟩
    · split
      · next h => subst h; exact Memory.wfFrom_cons.mpr ⟨hl, ha, hb, h4⟩
      · exact Memory.wfFrom_cons.mpr ⟨h1, h2, h3, ih (by omega) h4⟩

/-- Removing an address keeps the canonical form. -/
theorem Memory.wfFrom_remove {low : Nat} {m : Memory} (a : Nat) (hm : Memory.wfFrom low m = true) :
    Memory.wfFrom low (m.filter fun c => c.1 != a) = true := by
  induction m generalizing low with
  | nil => rfl
  | cons c rest ih =>
    obtain ⟨h1, h2, h3, h4⟩ := Memory.wfFrom_cons.mp hm
    simp only [List.filter_cons]
    split
    · exact Memory.wfFrom_cons.mpr ⟨h1, h2, h3, ih h4⟩
    · exact Memory.wfFrom_weaken (by omega) (ih h4)

/-- A write inside the space keeps the canonical form. -/
theorem Memory.wf_write {m : Memory} {a : Nat} (b : Byte) (ha : a < 2 ^ 28) (hm : m.wf = true) :
    (m.write a b).wf = true := by
  unfold Memory.write
  split
  · exact Memory.wfFrom_remove a hm
  · next h => exact Memory.wfFrom_insert (Nat.zero_le a) ha h hm

/-- An address below the bound of a canonical memory is unlisted. -/
theorem Memory.read_below {low : Nat} {m : Memory} {a : Nat} (h : a < low)
    (hm : Memory.wfFrom low m = true) : Memory.read m a = unlistedByte := by
  induction m generalizing low with
  | nil => rfl
  | cons c rest ih =>
    obtain ⟨h1, -, -, h4⟩ := Memory.wfFrom_cons.mp hm
    rw [Memory.read, if_neg (by omega)]
    exact ih (low := c.1 + 1) (by omega) h4

/-- Canonical memories that read alike list the same first address or nothing. -/
theorem Memory.head_not_below {low : Nat} {a d : Nat} {b e : Byte} {rest rest' : Memory}
    (hm : Memory.wfFrom low ((a, b) :: rest) = true) (hm' : Memory.wfFrom low ((d, e) :: rest') = true)
    (h : ∀ x, Memory.read ((a, b) :: rest) x = Memory.read ((d, e) :: rest') x) : ¬a < d := fun hlt => by
  obtain ⟨-, h2, h3, h4⟩ := Memory.wfFrom_cons.mp hm'
  have hd := Memory.read_below (low := d) hlt (Memory.wfFrom_cons.mpr ⟨le_refl d, h2, h3, h4⟩)
  have ha : Memory.read ((a, b) :: rest) a = b := by simp [Memory.read]
  exact (Memory.wfFrom_cons.mp hm).2.2.1 (by rw [← ha, h a, hd])

/-- Canonical memories that read alike are equal as data. -/
theorem Memory.ext_of_wfFrom {low : Nat} {m m' : Memory} (hm : Memory.wfFrom low m = true)
    (hm' : Memory.wfFrom low m' = true) (h : ∀ a, Memory.read m a = Memory.read m' a) : m = m' := by
  induction m generalizing low m' with
  | nil =>
    cases m' with
    | nil => rfl
    | cons c rest => exact absurd (by simpa [Memory.read] using (h c.1).symm) (Memory.wfFrom_cons.mp hm').2.2.1
  | cons c rest ih =>
    obtain ⟨c1, c2⟩ := c
    cases m' with
    | nil => exact absurd (by simpa [Memory.read] using h c1) (Memory.wfFrom_cons.mp hm).2.2.1
    | cons d rest' =>
      obtain ⟨d1, d2⟩ := d
      obtain rfl : c1 = d1 :=
        Nat.le_antisymm (not_lt.mp (Memory.head_not_below hm' hm fun x => (h x).symm))
          (not_lt.mp (Memory.head_not_below hm hm' h))
      obtain rfl : c2 = d2 := by simpa [Memory.read] using h c1
      have hr := (Memory.wfFrom_cons.mp hm).2.2.2
      have hr' := (Memory.wfFrom_cons.mp hm').2.2.2
      rw [ih hr hr' fun x => ?_]
      by_cases hx : x = c1
      · subst hx; rw [Memory.read_below (Nat.lt_succ_self _) hr, Memory.read_below (Nat.lt_succ_self _) hr']
      · simpa [Memory.read, hx] using h x

end Sys2Proof.Machine
end

