-- ==== Sys2Proof/Laws/State.lean ====
section
/-! SUPPORT. One lemma per field for each record update of the named operations, so that no proof unfolds one. -/

namespace Sys2Proof.Machine

/-! ### Registers -/

/-- The register just written reads back. -/
@[simp] theorem State.reg_setReg_self (s : State) (r : Reg) (v : Word) : (s.setReg r v).reg r = v := by
  simp [State.reg, State.setReg]

/-- The other registers keep their values. -/
@[simp] theorem State.reg_setReg_ne (s : State) {r q : Reg} (v : Word) (h : q ≠ r) :
    (s.setReg r v).reg q = s.reg q := by
  have : ¬r.val = q.val := fun e => h (Fin.ext e.symm)
  simp [State.reg, State.setReg, this]

/-- A register after a write, whichever it is. -/
theorem State.reg_setReg (s : State) (r q : Reg) (v : Word) :
    (s.setReg r v).reg q = if q = r then v else s.reg q := by
  split
  · next h => subst h; exact State.reg_setReg_self s q v
  · next h => exact State.reg_setReg_ne s v h

/-- Registers are read from the field `regs` alone. -/
theorem State.reg_congr {s t : State} (h : t.regs = s.regs) (r : Reg) : t.reg r = s.reg r := by
  simp [State.reg, h]

/-- A register file is known by its registers. -/
theorem State.regs_ext {s t : State} (h : ∀ r, t.reg r = s.reg r) : t.regs = s.regs :=
  Vector.ext fun i hi => h ⟨i, hi⟩

/-- A state is known by its fields. -/
theorem State.eq_of_fields {s t : State} (h_regs : s.regs = t.regs) (h_pc : s.pc = t.pc) (h_psr : s.psr = t.psr) (h_sp : s.sp = t.sp) (h_alr : s.alr = t.alr) (h_ahr : s.ahr = t.ahr) (h_ttbr : s.ttbr = t.ttbr) (h_ttbrWe : s.ttbrWe = t.ttbrWe) (h_dcr : s.dcr = t.dcr) (h_dcr2 : s.dcr2 = t.dcr2) (h_dsr : s.dsr = t.dsr) (h_dsr2 : s.dsr2 = t.dsr2) (h_ibar0 : s.ibar0 = t.ibar0) (h_ibar1 : s.ibar1 = t.ibar1) (h_ibar2 : s.ibar2 = t.ibar2) (h_dbar : s.dbar = t.dbar) (h_ext : s.ext = t.ext) (h_delay : s.delay = t.delay) (h_nmiArmed : s.nmiArmed = t.nmiArmed) (h_nmiPending : s.nmiPending = t.nmiPending) (h_run : s.run = t.run) (h_busReleased : s.busReleased = t.busReleased) (h_zdiv : s.zdiv = t.zdiv) (h_dbrk : s.dbrk = t.dbrk) (h_retdShadow : s.retdShadow = t.retdShadow) (h_mem : s.mem = t.mem) (h_cfg : s.cfg = t.cfg) (h_inputs : s.inputs = t.inputs) (h_freeCount : s.freeCount = t.freeCount) (h_debugCtl : s.debugCtl = t.debugCtl) (h_storesNow : s.storesNow = t.storesNow) (h_storesPrev : s.storesPrev = t.storesPrev) (h_storesPrev2 : s.storesPrev2 = t.storesPrev2) : s = t := by
  cases s; cases t; simp only [State.mk.injEq]; exact ⟨h_regs, h_pc, h_psr, h_sp, h_alr, h_ahr, h_ttbr, h_ttbrWe, h_dcr, h_dcr2, h_dsr, h_dsr2, h_ibar0, h_ibar1, h_ibar2, h_dbar, h_ext, h_delay, h_nmiArmed, h_nmiPending, h_run, h_busReleased, h_zdiv, h_dbrk, h_retdShadow, h_mem, h_cfg, h_inputs, h_freeCount, h_debugCtl, h_storesNow, h_storesPrev, h_storesPrev2⟩

/-! ### setReg -/

@[simp] theorem State.setReg_pc (s : State) (r : Reg) (v : Word) : (s.setReg r v).pc = s.pc := rfl
@[simp] theorem State.setReg_psr (s : State) (r : Reg) (v : Word) : (s.setReg r v).psr = s.psr := rfl
@[simp] theorem State.setReg_sp (s : State) (r : Reg) (v : Word) : (s.setReg r v).sp = s.sp := rfl
@[simp] theorem State.setReg_alr (s : State) (r : Reg) (v : Word) : (s.setReg r v).alr = s.alr := rfl
@[simp] theorem State.setReg_ahr (s : State) (r : Reg) (v : Word) : (s.setReg r v).ahr = s.ahr := rfl
@[simp] theorem State.setReg_ttbr (s : State) (r : Reg) (v : Word) : (s.setReg r v).ttbr = s.ttbr := rfl
@[simp] theorem State.setReg_ttbrWe (s : State) (r : Reg) (v : Word) : (s.setReg r v).ttbrWe = s.ttbrWe := rfl
@[simp] theorem State.setReg_dcr (s : State) (r : Reg) (v : Word) : (s.setReg r v).dcr = s.dcr := rfl
@[simp] theorem State.setReg_dcr2 (s : State) (r : Reg) (v : Word) : (s.setReg r v).dcr2 = s.dcr2 := rfl
@[simp] theorem State.setReg_dsr (s : State) (r : Reg) (v : Word) : (s.setReg r v).dsr = s.dsr := rfl
@[simp] theorem State.setReg_dsr2 (s : State) (r : Reg) (v : Word) : (s.setReg r v).dsr2 = s.dsr2 := rfl
@[simp] theorem State.setReg_ibar0 (s : State) (r : Reg) (v : Word) : (s.setReg r v).ibar0 = s.ibar0 := rfl
@[simp] theorem State.setReg_ibar1 (s : State) (r : Reg) (v : Word) : (s.setReg r v).ibar1 = s.ibar1 := rfl
@[simp] theorem State.setReg_ibar2 (s : State) (r : Reg) (v : Word) : (s.setReg r v).ibar2 = s.ibar2 := rfl
@[simp] theorem State.setReg_dbar (s : State) (r : Reg) (v : Word) : (s.setReg r v).dbar = s.dbar := rfl
@[simp] theorem State.setReg_ext (s : State) (r : Reg) (v : Word) : (s.setReg r v).ext = s.ext := rfl
@[simp] theorem State.setReg_delay (s : State) (r : Reg) (v : Word) : (s.setReg r v).delay = s.delay := rfl
@[simp] theorem State.setReg_nmiArmed (s : State) (r : Reg) (v : Word) : (s.setReg r v).nmiArmed = s.nmiArmed := rfl
@[simp] theorem State.setReg_nmiPending (s : State) (r : Reg) (v : Word) : (s.setReg r v).nmiPending = s.nmiPending := rfl
@[simp] theorem State.setReg_run (s : State) (r : Reg) (v : Word) : (s.setReg r v).run = s.run := rfl
@[simp] theorem State.setReg_busReleased (s : State) (r : Reg) (v : Word) : (s.setReg r v).busReleased = s.busReleased := rfl
@[simp] theorem State.setReg_zdiv (s : State) (r : Reg) (v : Word) : (s.setReg r v).zdiv = s.zdiv := rfl
@[simp] theorem State.setReg_dbrk (s : State) (r : Reg) (v : Word) : (s.setReg r v).dbrk = s.dbrk := rfl
@[simp] theorem State.setReg_retdShadow (s : State) (r : Reg) (v : Word) : (s.setReg r v).retdShadow = s.retdShadow := rfl
@[simp] theorem State.setReg_mem (s : State) (r : Reg) (v : Word) : (s.setReg r v).mem = s.mem := rfl
@[simp] theorem State.setReg_cfg (s : State) (r : Reg) (v : Word) : (s.setReg r v).cfg = s.cfg := rfl
@[simp] theorem State.setReg_inputs (s : State) (r : Reg) (v : Word) : (s.setReg r v).inputs = s.inputs := rfl
@[simp] theorem State.setReg_freeCount (s : State) (r : Reg) (v : Word) : (s.setReg r v).freeCount = s.freeCount := rfl
@[simp] theorem State.setReg_debugCtl (s : State) (r : Reg) (v : Word) : (s.setReg r v).debugCtl = s.debugCtl := rfl
@[simp] theorem State.setReg_storesNow (s : State) (r : Reg) (v : Word) : (s.setReg r v).storesNow = s.storesNow := rfl
@[simp] theorem State.setReg_storesPrev (s : State) (r : Reg) (v : Word) : (s.setReg r v).storesPrev = s.storesPrev := rfl
@[simp] theorem State.setReg_storesPrev2 (s : State) (r : Reg) (v : Word) : (s.setReg r v).storesPrev2 = s.storesPrev2 := rfl

/-! ### advance -/

@[simp] theorem State.advance_regs (s : State) : (s.advance).regs = s.regs := rfl
@[simp] theorem State.advance_pc (s : State) : (s.advance).pc = s.pc + 2#32 := rfl
@[simp] theorem State.advance_psr (s : State) : (s.advance).psr = s.psr := rfl
@[simp] theorem State.advance_sp (s : State) : (s.advance).sp = s.sp := rfl
@[simp] theorem State.advance_alr (s : State) : (s.advance).alr = s.alr := rfl
@[simp] theorem State.advance_ahr (s : State) : (s.advance).ahr = s.ahr := rfl
@[simp] theorem State.advance_ttbr (s : State) : (s.advance).ttbr = s.ttbr := rfl
@[simp] theorem State.advance_ttbrWe (s : State) : (s.advance).ttbrWe = s.ttbrWe := rfl
@[simp] theorem State.advance_dcr (s : State) : (s.advance).dcr = s.dcr := rfl
@[simp] theorem State.advance_dcr2 (s : State) : (s.advance).dcr2 = s.dcr2 := rfl
@[simp] theorem State.advance_dsr (s : State) : (s.advance).dsr = s.dsr := rfl
@[simp] theorem State.advance_dsr2 (s : State) : (s.advance).dsr2 = s.dsr2 := rfl
@[simp] theorem State.advance_ibar0 (s : State) : (s.advance).ibar0 = s.ibar0 := rfl
@[simp] theorem State.advance_ibar1 (s : State) : (s.advance).ibar1 = s.ibar1 := rfl
@[simp] theorem State.advance_ibar2 (s : State) : (s.advance).ibar2 = s.ibar2 := rfl
@[simp] theorem State.advance_dbar (s : State) : (s.advance).dbar = s.dbar := rfl
@[simp] theorem State.advance_ext (s : State) : (s.advance).ext = .none := rfl
@[simp] theorem State.advance_delay (s : State) : (s.advance).delay = s.delay := rfl
@[simp] theorem State.advance_nmiArmed (s : State) : (s.advance).nmiArmed = s.nmiArmed := rfl
@[simp] theorem State.advance_nmiPending (s : State) : (s.advance).nmiPending = s.nmiPending := rfl
@[simp] theorem State.advance_run (s : State) : (s.advance).run = s.run := rfl
@[simp] theorem State.advance_busReleased (s : State) : (s.advance).busReleased = s.busReleased := rfl
@[simp] theorem State.advance_zdiv (s : State) : (s.advance).zdiv = s.zdiv := rfl
@[simp] theorem State.advance_dbrk (s : State) : (s.advance).dbrk = s.dbrk := rfl
@[simp] theorem State.advance_retdShadow (s : State) : (s.advance).retdShadow = s.retdShadow := rfl
@[simp] theorem State.advance_mem (s : State) : (s.advance).mem = s.mem := rfl
@[simp] theorem State.advance_cfg (s : State) : (s.advance).cfg = s.cfg := rfl
@[simp] theorem State.advance_inputs (s : State) : (s.advance).inputs = s.inputs := rfl
@[simp] theorem State.advance_freeCount (s : State) : (s.advance).freeCount = s.freeCount := rfl
@[simp] theorem State.advance_debugCtl (s : State) : (s.advance).debugCtl = s.debugCtl := rfl
@[simp] theorem State.advance_storesNow (s : State) : (s.advance).storesNow = s.storesNow := rfl
@[simp] theorem State.advance_storesPrev (s : State) : (s.advance).storesPrev = s.storesPrev := rfl
@[simp] theorem State.advance_storesPrev2 (s : State) : (s.advance).storesPrev2 = s.storesPrev2 := rfl
@[simp] theorem State.advance_reg (s : State) (r : Reg) : (s.advance).reg r = s.reg r := rfl

/-! ### setAccumulator -/

@[simp] theorem State.setAccumulator_regs (s : State) (v : BitVec 64) : (s.setAccumulator v).regs = s.regs := rfl
@[simp] theorem State.setAccumulator_pc (s : State) (v : BitVec 64) : (s.setAccumulator v).pc = s.pc := rfl
@[simp] theorem State.setAccumulator_psr (s : State) (v : BitVec 64) : (s.setAccumulator v).psr = s.psr := rfl
@[simp] theorem State.setAccumulator_sp (s : State) (v : BitVec 64) : (s.setAccumulator v).sp = s.sp := rfl
@[simp] theorem State.setAccumulator_alr (s : State) (v : BitVec 64) : (s.setAccumulator v).alr = v.extractLsb' 0 32 := rfl
@[simp] theorem State.setAccumulator_ahr (s : State) (v : BitVec 64) : (s.setAccumulator v).ahr = v.extractLsb' 32 32 := rfl
@[simp] theorem State.setAccumulator_ttbr (s : State) (v : BitVec 64) : (s.setAccumulator v).ttbr = s.ttbr := rfl
@[simp] theorem State.setAccumulator_ttbrWe (s : State) (v : BitVec 64) : (s.setAccumulator v).ttbrWe = s.ttbrWe := rfl
@[simp] theorem State.setAccumulator_dcr (s : State) (v : BitVec 64) : (s.setAccumulator v).dcr = s.dcr := rfl
@[simp] theorem State.setAccumulator_dcr2 (s : State) (v : BitVec 64) : (s.setAccumulator v).dcr2 = s.dcr2 := rfl
@[simp] theorem State.setAccumulator_dsr (s : State) (v : BitVec 64) : (s.setAccumulator v).dsr = s.dsr := rfl
@[simp] theorem State.setAccumulator_dsr2 (s : State) (v : BitVec 64) : (s.setAccumulator v).dsr2 = s.dsr2 := rfl
@[simp] theorem State.setAccumulator_ibar0 (s : State) (v : BitVec 64) : (s.setAccumulator v).ibar0 = s.ibar0 := rfl
@[simp] theorem State.setAccumulator_ibar1 (s : State) (v : BitVec 64) : (s.setAccumulator v).ibar1 = s.ibar1 := rfl
@[simp] theorem State.setAccumulator_ibar2 (s : State) (v : BitVec 64) : (s.setAccumulator v).ibar2 = s.ibar2 := rfl
@[simp] theorem State.setAccumulator_dbar (s : State) (v : BitVec 64) : (s.setAccumulator v).dbar = s.dbar := rfl
@[simp] theorem State.setAccumulator_ext (s : State) (v : BitVec 64) : (s.setAccumulator v).ext = s.ext := rfl
@[simp] theorem State.setAccumulator_delay (s : State) (v : BitVec 64) : (s.setAccumulator v).delay = s.delay := rfl
@[simp] theorem State.setAccumulator_nmiArmed (s : State) (v : BitVec 64) : (s.setAccumulator v).nmiArmed = s.nmiArmed := rfl
@[simp] theorem State.setAccumulator_nmiPending (s : State) (v : BitVec 64) : (s.setAccumulator v).nmiPending = s.nmiPending := rfl
@[simp] theorem State.setAccumulator_run (s : State) (v : BitVec 64) : (s.setAccumulator v).run = s.run := rfl
@[simp] theorem State.setAccumulator_busReleased (s : State) (v : BitVec 64) : (s.setAccumulator v).busReleased = s.busReleased := rfl
@[simp] theorem State.setAccumulator_zdiv (s : State) (v : BitVec 64) : (s.setAccumulator v).zdiv = s.zdiv := rfl
@[simp] theorem State.setAccumulator_dbrk (s : State) (v : BitVec 64) : (s.setAccumulator v).dbrk = s.dbrk := rfl
@[simp] theorem State.setAccumulator_retdShadow (s : State) (v : BitVec 64) : (s.setAccumulator v).retdShadow = s.retdShadow := rfl
@[simp] theorem State.setAccumulator_mem (s : State) (v : BitVec 64) : (s.setAccumulator v).mem = s.mem := rfl
@[simp] theorem State.setAccumulator_cfg (s : State) (v : BitVec 64) : (s.setAccumulator v).cfg = s.cfg := rfl
@[simp] theorem State.setAccumulator_inputs (s : State) (v : BitVec 64) : (s.setAccumulator v).inputs = s.inputs := rfl
@[simp] theorem State.setAccumulator_freeCount (s : State) (v : BitVec 64) : (s.setAccumulator v).freeCount = s.freeCount := rfl
@[simp] theorem State.setAccumulator_debugCtl (s : State) (v : BitVec 64) : (s.setAccumulator v).debugCtl = s.debugCtl := rfl
@[simp] theorem State.setAccumulator_storesNow (s : State) (v : BitVec 64) : (s.setAccumulator v).storesNow = s.storesNow := rfl
@[simp] theorem State.setAccumulator_storesPrev (s : State) (v : BitVec 64) : (s.setAccumulator v).storesPrev = s.storesPrev := rfl
@[simp] theorem State.setAccumulator_storesPrev2 (s : State) (v : BitVec 64) : (s.setAccumulator v).storesPrev2 = s.storesPrev2 := rfl
@[simp] theorem State.setAccumulator_reg (s : State) (v : BitVec 64) (r : Reg) : (s.setAccumulator v).reg r = s.reg r := rfl

/-! ### begun -/

@[simp] theorem State.begun_regs (s : State) : (s.begun).regs = s.regs := rfl
@[simp] theorem State.begun_pc (s : State) : (s.begun).pc = s.pc := rfl
@[simp] theorem State.begun_psr (s : State) : (s.begun).psr = s.psr := rfl
@[simp] theorem State.begun_sp (s : State) : (s.begun).sp = s.sp := rfl
@[simp] theorem State.begun_alr (s : State) : (s.begun).alr = s.alr := rfl
@[simp] theorem State.begun_ahr (s : State) : (s.begun).ahr = s.ahr := rfl
@[simp] theorem State.begun_ttbr (s : State) : (s.begun).ttbr = s.ttbr := rfl
@[simp] theorem State.begun_ttbrWe (s : State) : (s.begun).ttbrWe = s.ttbrWe := rfl
@[simp] theorem State.begun_dcr (s : State) : (s.begun).dcr = s.dcr := rfl
@[simp] theorem State.begun_dcr2 (s : State) : (s.begun).dcr2 = s.dcr2 := rfl
@[simp] theorem State.begun_dsr (s : State) : (s.begun).dsr = s.dsr := rfl
@[simp] theorem State.begun_dsr2 (s : State) : (s.begun).dsr2 = s.dsr2 := rfl
@[simp] theorem State.begun_ibar0 (s : State) : (s.begun).ibar0 = s.ibar0 := rfl
@[simp] theorem State.begun_ibar1 (s : State) : (s.begun).ibar1 = s.ibar1 := rfl
@[simp] theorem State.begun_ibar2 (s : State) : (s.begun).ibar2 = s.ibar2 := rfl
@[simp] theorem State.begun_dbar (s : State) : (s.begun).dbar = s.dbar := rfl
@[simp] theorem State.begun_ext (s : State) : (s.begun).ext = s.ext := rfl
@[simp] theorem State.begun_delay (s : State) : (s.begun).delay = s.delay := rfl
@[simp] theorem State.begun_nmiArmed (s : State) : (s.begun).nmiArmed = s.nmiArmed := rfl
@[simp] theorem State.begun_nmiPending (s : State) : (s.begun).nmiPending = s.nmiPending := rfl
@[simp] theorem State.begun_run (s : State) : (s.begun).run = s.run := rfl
@[simp] theorem State.begun_busReleased (s : State) : (s.begun).busReleased = s.busReleased := rfl
@[simp] theorem State.begun_zdiv (s : State) : (s.begun).zdiv = s.zdiv := rfl
@[simp] theorem State.begun_dbrk (s : State) : (s.begun).dbrk = s.dbrk := rfl
@[simp] theorem State.begun_retdShadow (s : State) : (s.begun).retdShadow = s.retdShadow := rfl
@[simp] theorem State.begun_mem (s : State) : (s.begun).mem = s.mem := rfl
@[simp] theorem State.begun_cfg (s : State) : (s.begun).cfg = s.cfg := rfl
@[simp] theorem State.begun_inputs (s : State) : (s.begun).inputs = s.inputs.tail := rfl
@[simp] theorem State.begun_freeCount (s : State) : (s.begun).freeCount = s.freeCount + 1 := rfl
@[simp] theorem State.begun_debugCtl (s : State) : (s.begun).debugCtl = s.debugCtl := rfl
@[simp] theorem State.begun_storesNow (s : State) : (s.begun).storesNow = s.storesNow := rfl
@[simp] theorem State.begun_storesPrev (s : State) : (s.begun).storesPrev = s.storesPrev := rfl
@[simp] theorem State.begun_storesPrev2 (s : State) : (s.begun).storesPrev2 = s.storesPrev2 := rfl
@[simp] theorem State.begun_reg (s : State) (r : Reg) : (s.begun).reg r = s.reg r := rfl

/-! ### latch -/

@[simp] theorem State.latch_regs (s : State) (i : Input) : (s.latch i).regs = s.regs := rfl
@[simp] theorem State.latch_pc (s : State) (i : Input) : (s.latch i).pc = s.pc := rfl
@[simp] theorem State.latch_psr (s : State) (i : Input) : (s.latch i).psr = s.psr := rfl
@[simp] theorem State.latch_sp (s : State) (i : Input) : (s.latch i).sp = s.sp := rfl
@[simp] theorem State.latch_alr (s : State) (i : Input) : (s.latch i).alr = s.alr := rfl
@[simp] theorem State.latch_ahr (s : State) (i : Input) : (s.latch i).ahr = s.ahr := rfl
@[simp] theorem State.latch_ttbr (s : State) (i : Input) : (s.latch i).ttbr = s.ttbr := rfl
@[simp] theorem State.latch_ttbrWe (s : State) (i : Input) : (s.latch i).ttbrWe = s.ttbrWe := rfl
@[simp] theorem State.latch_dcr (s : State) (i : Input) : (s.latch i).dcr = s.dcr := rfl
@[simp] theorem State.latch_dcr2 (s : State) (i : Input) : (s.latch i).dcr2 = s.dcr2 := rfl
@[simp] theorem State.latch_dsr (s : State) (i : Input) : (s.latch i).dsr = s.dsr := rfl
@[simp] theorem State.latch_dsr2 (s : State) (i : Input) : (s.latch i).dsr2 = s.dsr2 := rfl
@[simp] theorem State.latch_ibar0 (s : State) (i : Input) : (s.latch i).ibar0 = s.ibar0 := rfl
@[simp] theorem State.latch_ibar1 (s : State) (i : Input) : (s.latch i).ibar1 = s.ibar1 := rfl
@[simp] theorem State.latch_ibar2 (s : State) (i : Input) : (s.latch i).ibar2 = s.ibar2 := rfl
@[simp] theorem State.latch_dbar (s : State) (i : Input) : (s.latch i).dbar = s.dbar := rfl
@[simp] theorem State.latch_ext (s : State) (i : Input) : (s.latch i).ext = s.ext := rfl
@[simp] theorem State.latch_delay (s : State) (i : Input) : (s.latch i).delay = s.delay := rfl
@[simp] theorem State.latch_nmiArmed (s : State) (i : Input) : (s.latch i).nmiArmed = s.nmiArmed := rfl
@[simp] theorem State.latch_nmiPending (s : State) (i : Input) : (s.latch i).nmiPending = (s.nmiPending || (i.nmiEdge && s.nmiArmed)) := rfl
@[simp] theorem State.latch_run (s : State) (i : Input) : (s.latch i).run = s.run := rfl
@[simp] theorem State.latch_busReleased (s : State) (i : Input) : (s.latch i).busReleased = i.busreq := rfl
@[simp] theorem State.latch_zdiv (s : State) (i : Input) : (s.latch i).zdiv = s.zdiv := rfl
@[simp] theorem State.latch_dbrk (s : State) (i : Input) : (s.latch i).dbrk = s.dbrk := rfl
@[simp] theorem State.latch_retdShadow (s : State) (i : Input) : (s.latch i).retdShadow = s.retdShadow := rfl
@[simp] theorem State.latch_mem (s : State) (i : Input) : (s.latch i).mem = s.mem := rfl
@[simp] theorem State.latch_cfg (s : State) (i : Input) : (s.latch i).cfg = s.cfg := rfl
@[simp] theorem State.latch_inputs (s : State) (i : Input) : (s.latch i).inputs = s.inputs := rfl
@[simp] theorem State.latch_freeCount (s : State) (i : Input) : (s.latch i).freeCount = s.freeCount := rfl
@[simp] theorem State.latch_debugCtl (s : State) (i : Input) : (s.latch i).debugCtl = s.debugCtl := rfl
@[simp] theorem State.latch_storesNow (s : State) (i : Input) : (s.latch i).storesNow = s.storesNow := rfl
@[simp] theorem State.latch_storesPrev (s : State) (i : Input) : (s.latch i).storesPrev = s.storesPrev := rfl
@[simp] theorem State.latch_storesPrev2 (s : State) (i : Input) : (s.latch i).storesPrev2 = s.storesPrev2 := rfl
@[simp] theorem State.latch_reg (s : State) (i : Input) (r : Reg) : (s.latch i).reg r = s.reg r := rfl

end Sys2Proof.Machine
end

