-- ==== Sys2Proof/Laws/Writes.lean ====
section
/-! SUPPORT. What the traces of data accesses, the byte writes and the stack operations leave unchanged: one equation for each operation, and its fields. -/

namespace Sys2Proof.Machine

/-! ### Traces of accesses -/

/-- `touch` changes the field `debugCtl` alone. -/
theorem State.touch_eq (s : State) (size : Size) (x : Word) :
    s.touch size x = { s with debugCtl := (s.touch size x).debugCtl } := by
  unfold State.touch; split <;> rfl

/-- `touch` never leaves a state whose debug control was not written wrongly. -/
@[simp] theorem State.touch_debugCtl_ok (s : State) (size : Size) (x : Word) (h : s.debugCtl = .ok) :
    (s.touch size x).debugCtl = .ok := by
  simp [State.touch, h]

/-- `armDataBreak` changes the field `dbrk` alone. -/
theorem State.armDataBreak_eq (s : State) (write : Bool) (x : Word) :
    s.armDataBreak write x = { s with dbrk := (s.armDataBreak write x).dbrk } := by
  unfold State.armDataBreak; split <;> rfl

/-- `noteRead` changes the fields `debugCtl` and `dbrk` alone. -/
theorem State.noteRead_eq (s : State) (size : Size) (x : Word) :
    s.noteRead size x =
      { s with debugCtl := (s.noteRead size x).debugCtl, dbrk := (s.noteRead size x).dbrk } := by
  unfold State.noteRead
  rw [State.armDataBreak_eq, State.touch_eq]

/-- `noteWrite` changes the fields `debugCtl`, `dbrk` and `storesNow` alone. -/
theorem State.noteWrite_eq (s : State) (size : Size) (x : Word) :
    s.noteWrite size x =
      { s with
        debugCtl := (s.noteWrite size x).debugCtl
        dbrk := (s.noteWrite size x).dbrk
        storesNow := (s.noteWrite size x).storesNow } := by
  unfold State.noteWrite
  rw [State.armDataBreak_eq, State.touch_eq]

@[simp] theorem State.touch_regs (s : State) (size : Size) (x : Word) : (s.touch size x).regs = s.regs := by rw [State.touch_eq]
@[simp] theorem State.touch_pc (s : State) (size : Size) (x : Word) : (s.touch size x).pc = s.pc := by rw [State.touch_eq]
@[simp] theorem State.touch_psr (s : State) (size : Size) (x : Word) : (s.touch size x).psr = s.psr := by rw [State.touch_eq]
@[simp] theorem State.touch_sp (s : State) (size : Size) (x : Word) : (s.touch size x).sp = s.sp := by rw [State.touch_eq]
@[simp] theorem State.touch_alr (s : State) (size : Size) (x : Word) : (s.touch size x).alr = s.alr := by rw [State.touch_eq]
@[simp] theorem State.touch_ahr (s : State) (size : Size) (x : Word) : (s.touch size x).ahr = s.ahr := by rw [State.touch_eq]
@[simp] theorem State.touch_ttbr (s : State) (size : Size) (x : Word) : (s.touch size x).ttbr = s.ttbr := by rw [State.touch_eq]
@[simp] theorem State.touch_ttbrWe (s : State) (size : Size) (x : Word) : (s.touch size x).ttbrWe = s.ttbrWe := by rw [State.touch_eq]
@[simp] theorem State.touch_dcr (s : State) (size : Size) (x : Word) : (s.touch size x).dcr = s.dcr := by rw [State.touch_eq]
@[simp] theorem State.touch_dcr2 (s : State) (size : Size) (x : Word) : (s.touch size x).dcr2 = s.dcr2 := by rw [State.touch_eq]
@[simp] theorem State.touch_dsr (s : State) (size : Size) (x : Word) : (s.touch size x).dsr = s.dsr := by rw [State.touch_eq]
@[simp] theorem State.touch_dsr2 (s : State) (size : Size) (x : Word) : (s.touch size x).dsr2 = s.dsr2 := by rw [State.touch_eq]
@[simp] theorem State.touch_ibar0 (s : State) (size : Size) (x : Word) : (s.touch size x).ibar0 = s.ibar0 := by rw [State.touch_eq]
@[simp] theorem State.touch_ibar1 (s : State) (size : Size) (x : Word) : (s.touch size x).ibar1 = s.ibar1 := by rw [State.touch_eq]
@[simp] theorem State.touch_ibar2 (s : State) (size : Size) (x : Word) : (s.touch size x).ibar2 = s.ibar2 := by rw [State.touch_eq]
@[simp] theorem State.touch_dbar (s : State) (size : Size) (x : Word) : (s.touch size x).dbar = s.dbar := by rw [State.touch_eq]
@[simp] theorem State.touch_ext (s : State) (size : Size) (x : Word) : (s.touch size x).ext = s.ext := by rw [State.touch_eq]
@[simp] theorem State.touch_delay (s : State) (size : Size) (x : Word) : (s.touch size x).delay = s.delay := by rw [State.touch_eq]
@[simp] theorem State.touch_nmiArmed (s : State) (size : Size) (x : Word) : (s.touch size x).nmiArmed = s.nmiArmed := by rw [State.touch_eq]
@[simp] theorem State.touch_nmiPending (s : State) (size : Size) (x : Word) : (s.touch size x).nmiPending = s.nmiPending := by rw [State.touch_eq]
@[simp] theorem State.touch_run (s : State) (size : Size) (x : Word) : (s.touch size x).run = s.run := by rw [State.touch_eq]
@[simp] theorem State.touch_busReleased (s : State) (size : Size) (x : Word) : (s.touch size x).busReleased = s.busReleased := by rw [State.touch_eq]
@[simp] theorem State.touch_zdiv (s : State) (size : Size) (x : Word) : (s.touch size x).zdiv = s.zdiv := by rw [State.touch_eq]
@[simp] theorem State.touch_dbrk (s : State) (size : Size) (x : Word) : (s.touch size x).dbrk = s.dbrk := by rw [State.touch_eq]
@[simp] theorem State.touch_retdShadow (s : State) (size : Size) (x : Word) : (s.touch size x).retdShadow = s.retdShadow := by rw [State.touch_eq]
@[simp] theorem State.touch_mem (s : State) (size : Size) (x : Word) : (s.touch size x).mem = s.mem := by rw [State.touch_eq]
@[simp] theorem State.touch_cfg (s : State) (size : Size) (x : Word) : (s.touch size x).cfg = s.cfg := by rw [State.touch_eq]
@[simp] theorem State.touch_inputs (s : State) (size : Size) (x : Word) : (s.touch size x).inputs = s.inputs := by rw [State.touch_eq]
@[simp] theorem State.touch_freeCount (s : State) (size : Size) (x : Word) : (s.touch size x).freeCount = s.freeCount := by rw [State.touch_eq]
@[simp] theorem State.touch_storesNow (s : State) (size : Size) (x : Word) : (s.touch size x).storesNow = s.storesNow := by rw [State.touch_eq]
@[simp] theorem State.touch_storesPrev (s : State) (size : Size) (x : Word) : (s.touch size x).storesPrev = s.storesPrev := by rw [State.touch_eq]
@[simp] theorem State.touch_storesPrev2 (s : State) (size : Size) (x : Word) : (s.touch size x).storesPrev2 = s.storesPrev2 := by rw [State.touch_eq]
@[simp] theorem State.touch_reg (s : State) (size : Size) (x : Word) (r : Reg) : (s.touch size x).reg r = s.reg r :=
  State.reg_congr (State.touch_regs s size x) r

@[simp] theorem State.noteRead_regs (s : State) (size : Size) (x : Word) : (s.noteRead size x).regs = s.regs := by rw [State.noteRead_eq]
@[simp] theorem State.noteRead_pc (s : State) (size : Size) (x : Word) : (s.noteRead size x).pc = s.pc := by rw [State.noteRead_eq]
@[simp] theorem State.noteRead_psr (s : State) (size : Size) (x : Word) : (s.noteRead size x).psr = s.psr := by rw [State.noteRead_eq]
@[simp] theorem State.noteRead_sp (s : State) (size : Size) (x : Word) : (s.noteRead size x).sp = s.sp := by rw [State.noteRead_eq]
@[simp] theorem State.noteRead_alr (s : State) (size : Size) (x : Word) : (s.noteRead size x).alr = s.alr := by rw [State.noteRead_eq]
@[simp] theorem State.noteRead_ahr (s : State) (size : Size) (x : Word) : (s.noteRead size x).ahr = s.ahr := by rw [State.noteRead_eq]
@[simp] theorem State.noteRead_ttbr (s : State) (size : Size) (x : Word) : (s.noteRead size x).ttbr = s.ttbr := by rw [State.noteRead_eq]
@[simp] theorem State.noteRead_ttbrWe (s : State) (size : Size) (x : Word) : (s.noteRead size x).ttbrWe = s.ttbrWe := by rw [State.noteRead_eq]
@[simp] theorem State.noteRead_dcr (s : State) (size : Size) (x : Word) : (s.noteRead size x).dcr = s.dcr := by rw [State.noteRead_eq]
@[simp] theorem State.noteRead_dcr2 (s : State) (size : Size) (x : Word) : (s.noteRead size x).dcr2 = s.dcr2 := by rw [State.noteRead_eq]
@[simp] theorem State.noteRead_dsr (s : State) (size : Size) (x : Word) : (s.noteRead size x).dsr = s.dsr := by rw [State.noteRead_eq]
@[simp] theorem State.noteRead_dsr2 (s : State) (size : Size) (x : Word) : (s.noteRead size x).dsr2 = s.dsr2 := by rw [State.noteRead_eq]
@[simp] theorem State.noteRead_ibar0 (s : State) (size : Size) (x : Word) : (s.noteRead size x).ibar0 = s.ibar0 := by rw [State.noteRead_eq]
@[simp] theorem State.noteRead_ibar1 (s : State) (size : Size) (x : Word) : (s.noteRead size x).ibar1 = s.ibar1 := by rw [State.noteRead_eq]
@[simp] theorem State.noteRead_ibar2 (s : State) (size : Size) (x : Word) : (s.noteRead size x).ibar2 = s.ibar2 := by rw [State.noteRead_eq]
@[simp] theorem State.noteRead_dbar (s : State) (size : Size) (x : Word) : (s.noteRead size x).dbar = s.dbar := by rw [State.noteRead_eq]
@[simp] theorem State.noteRead_ext (s : State) (size : Size) (x : Word) : (s.noteRead size x).ext = s.ext := by rw [State.noteRead_eq]
@[simp] theorem State.noteRead_delay (s : State) (size : Size) (x : Word) : (s.noteRead size x).delay = s.delay := by rw [State.noteRead_eq]
@[simp] theorem State.noteRead_nmiArmed (s : State) (size : Size) (x : Word) : (s.noteRead size x).nmiArmed = s.nmiArmed := by rw [State.noteRead_eq]
@[simp] theorem State.noteRead_nmiPending (s : State) (size : Size) (x : Word) : (s.noteRead size x).nmiPending = s.nmiPending := by rw [State.noteRead_eq]
@[simp] theorem State.noteRead_run (s : State) (size : Size) (x : Word) : (s.noteRead size x).run = s.run := by rw [State.noteRead_eq]
@[simp] theorem State.noteRead_busReleased (s : State) (size : Size) (x : Word) : (s.noteRead size x).busReleased = s.busReleased := by rw [State.noteRead_eq]
@[simp] theorem State.noteRead_zdiv (s : State) (size : Size) (x : Word) : (s.noteRead size x).zdiv = s.zdiv := by rw [State.noteRead_eq]
@[simp] theorem State.noteRead_retdShadow (s : State) (size : Size) (x : Word) : (s.noteRead size x).retdShadow = s.retdShadow := by rw [State.noteRead_eq]
@[simp] theorem State.noteRead_mem (s : State) (size : Size) (x : Word) : (s.noteRead size x).mem = s.mem := by rw [State.noteRead_eq]
@[simp] theorem State.noteRead_cfg (s : State) (size : Size) (x : Word) : (s.noteRead size x).cfg = s.cfg := by rw [State.noteRead_eq]
@[simp] theorem State.noteRead_inputs (s : State) (size : Size) (x : Word) : (s.noteRead size x).inputs = s.inputs := by rw [State.noteRead_eq]
@[simp] theorem State.noteRead_freeCount (s : State) (size : Size) (x : Word) : (s.noteRead size x).freeCount = s.freeCount := by rw [State.noteRead_eq]
@[simp] theorem State.noteRead_storesNow (s : State) (size : Size) (x : Word) : (s.noteRead size x).storesNow = s.storesNow := by rw [State.noteRead_eq]
@[simp] theorem State.noteRead_storesPrev (s : State) (size : Size) (x : Word) : (s.noteRead size x).storesPrev = s.storesPrev := by rw [State.noteRead_eq]
@[simp] theorem State.noteRead_storesPrev2 (s : State) (size : Size) (x : Word) : (s.noteRead size x).storesPrev2 = s.storesPrev2 := by rw [State.noteRead_eq]
@[simp] theorem State.noteRead_reg (s : State) (size : Size) (x : Word) (r : Reg) : (s.noteRead size x).reg r = s.reg r :=
  State.reg_congr (State.noteRead_regs s size x) r

@[simp] theorem State.noteWrite_regs (s : State) (size : Size) (x : Word) : (s.noteWrite size x).regs = s.regs := by rw [State.noteWrite_eq]
@[simp] theorem State.noteWrite_pc (s : State) (size : Size) (x : Word) : (s.noteWrite size x).pc = s.pc := by rw [State.noteWrite_eq]
@[simp] theorem State.noteWrite_psr (s : State) (size : Size) (x : Word) : (s.noteWrite size x).psr = s.psr := by rw [State.noteWrite_eq]
@[simp] theorem State.noteWrite_sp (s : State) (size : Size) (x : Word) : (s.noteWrite size x).sp = s.sp := by rw [State.noteWrite_eq]
@[simp] theorem State.noteWrite_alr (s : State) (size : Size) (x : Word) : (s.noteWrite size x).alr = s.alr := by rw [State.noteWrite_eq]
@[simp] theorem State.noteWrite_ahr (s : State) (size : Size) (x : Word) : (s.noteWrite size x).ahr = s.ahr := by rw [State.noteWrite_eq]
@[simp] theorem State.noteWrite_ttbr (s : State) (size : Size) (x : Word) : (s.noteWrite size x).ttbr = s.ttbr := by rw [State.noteWrite_eq]
@[simp] theorem State.noteWrite_ttbrWe (s : State) (size : Size) (x : Word) : (s.noteWrite size x).ttbrWe = s.ttbrWe := by rw [State.noteWrite_eq]
@[simp] theorem State.noteWrite_dcr (s : State) (size : Size) (x : Word) : (s.noteWrite size x).dcr = s.dcr := by rw [State.noteWrite_eq]
@[simp] theorem State.noteWrite_dcr2 (s : State) (size : Size) (x : Word) : (s.noteWrite size x).dcr2 = s.dcr2 := by rw [State.noteWrite_eq]
@[simp] theorem State.noteWrite_dsr (s : State) (size : Size) (x : Word) : (s.noteWrite size x).dsr = s.dsr := by rw [State.noteWrite_eq]
@[simp] theorem State.noteWrite_dsr2 (s : State) (size : Size) (x : Word) : (s.noteWrite size x).dsr2 = s.dsr2 := by rw [State.noteWrite_eq]
@[simp] theorem State.noteWrite_ibar0 (s : State) (size : Size) (x : Word) : (s.noteWrite size x).ibar0 = s.ibar0 := by rw [State.noteWrite_eq]
@[simp] theorem State.noteWrite_ibar1 (s : State) (size : Size) (x : Word) : (s.noteWrite size x).ibar1 = s.ibar1 := by rw [State.noteWrite_eq]
@[simp] theorem State.noteWrite_ibar2 (s : State) (size : Size) (x : Word) : (s.noteWrite size x).ibar2 = s.ibar2 := by rw [State.noteWrite_eq]
@[simp] theorem State.noteWrite_dbar (s : State) (size : Size) (x : Word) : (s.noteWrite size x).dbar = s.dbar := by rw [State.noteWrite_eq]
@[simp] theorem State.noteWrite_ext (s : State) (size : Size) (x : Word) : (s.noteWrite size x).ext = s.ext := by rw [State.noteWrite_eq]
@[simp] theorem State.noteWrite_delay (s : State) (size : Size) (x : Word) : (s.noteWrite size x).delay = s.delay := by rw [State.noteWrite_eq]
@[simp] theorem State.noteWrite_nmiArmed (s : State) (size : Size) (x : Word) : (s.noteWrite size x).nmiArmed = s.nmiArmed := by rw [State.noteWrite_eq]
@[simp] theorem State.noteWrite_nmiPending (s : State) (size : Size) (x : Word) : (s.noteWrite size x).nmiPending = s.nmiPending := by rw [State.noteWrite_eq]
@[simp] theorem State.noteWrite_run (s : State) (size : Size) (x : Word) : (s.noteWrite size x).run = s.run := by rw [State.noteWrite_eq]
@[simp] theorem State.noteWrite_busReleased (s : State) (size : Size) (x : Word) : (s.noteWrite size x).busReleased = s.busReleased := by rw [State.noteWrite_eq]
@[simp] theorem State.noteWrite_zdiv (s : State) (size : Size) (x : Word) : (s.noteWrite size x).zdiv = s.zdiv := by rw [State.noteWrite_eq]
@[simp] theorem State.noteWrite_retdShadow (s : State) (size : Size) (x : Word) : (s.noteWrite size x).retdShadow = s.retdShadow := by rw [State.noteWrite_eq]
@[simp] theorem State.noteWrite_mem (s : State) (size : Size) (x : Word) : (s.noteWrite size x).mem = s.mem := by rw [State.noteWrite_eq]
@[simp] theorem State.noteWrite_cfg (s : State) (size : Size) (x : Word) : (s.noteWrite size x).cfg = s.cfg := by rw [State.noteWrite_eq]
@[simp] theorem State.noteWrite_inputs (s : State) (size : Size) (x : Word) : (s.noteWrite size x).inputs = s.inputs := by rw [State.noteWrite_eq]
@[simp] theorem State.noteWrite_freeCount (s : State) (size : Size) (x : Word) : (s.noteWrite size x).freeCount = s.freeCount := by rw [State.noteWrite_eq]
@[simp] theorem State.noteWrite_storesPrev (s : State) (size : Size) (x : Word) : (s.noteWrite size x).storesPrev = s.storesPrev := by rw [State.noteWrite_eq]
@[simp] theorem State.noteWrite_storesPrev2 (s : State) (size : Size) (x : Word) : (s.noteWrite size x).storesPrev2 = s.storesPrev2 := by rw [State.noteWrite_eq]
@[simp] theorem State.noteWrite_reg (s : State) (size : Size) (x : Word) (r : Reg) : (s.noteWrite size x).reg r = s.reg r :=
  State.reg_congr (State.noteWrite_regs s size x) r

/-! ### Writes -/

/-- A write of a mapped byte changes the mapped registers alone. -/
theorem State.writeMapped_eq (s : State) (r : MappedByte) (b : Byte) :
    s.writeMapped r b =
      { s with
        ttbr := (s.writeMapped r b).ttbr
        ttbrWe := (s.writeMapped r b).ttbrWe
        dcr := (s.writeMapped r b).dcr
        dcr2 := (s.writeMapped r b).dcr2
        dsr := (s.writeMapped r b).dsr
        dsr2 := (s.writeMapped r b).dsr2
        ibar0 := (s.writeMapped r b).ibar0
        ibar1 := (s.writeMapped r b).ibar1
        ibar2 := (s.writeMapped r b).ibar2
        dbar := (s.writeMapped r b).dbar
        debugCtl := (s.writeMapped r b).debugCtl } := by
  cases r <;> rfl

/-- A byte write changes memory and the mapped registers alone. -/
theorem State.writeByte_eq (s : State) (a : Nat) (b : Byte) :
    s.writeByte a b =
      { s with
        ttbr := (s.writeByte a b).ttbr
        ttbrWe := (s.writeByte a b).ttbrWe
        dcr := (s.writeByte a b).dcr
        dcr2 := (s.writeByte a b).dcr2
        dsr := (s.writeByte a b).dsr
        dsr2 := (s.writeByte a b).dsr2
        ibar0 := (s.writeByte a b).ibar0
        ibar1 := (s.writeByte a b).ibar1
        ibar2 := (s.writeByte a b).ibar2
        dbar := (s.writeByte a b).dbar
        mem := (s.writeByte a b).mem
        debugCtl := (s.writeByte a b).debugCtl } := by
  unfold State.writeByte
  split
  · rfl
  · split
    · rw [State.writeMapped_eq]
    · split <;> rfl

@[simp] theorem State.writeMapped_regs (s : State) (k : MappedByte) (b : Byte) : (s.writeMapped k b).regs = s.regs := by rw [State.writeMapped_eq]
@[simp] theorem State.writeMapped_pc (s : State) (k : MappedByte) (b : Byte) : (s.writeMapped k b).pc = s.pc := by rw [State.writeMapped_eq]
@[simp] theorem State.writeMapped_psr (s : State) (k : MappedByte) (b : Byte) : (s.writeMapped k b).psr = s.psr := by rw [State.writeMapped_eq]
@[simp] theorem State.writeMapped_sp (s : State) (k : MappedByte) (b : Byte) : (s.writeMapped k b).sp = s.sp := by rw [State.writeMapped_eq]
@[simp] theorem State.writeMapped_alr (s : State) (k : MappedByte) (b : Byte) : (s.writeMapped k b).alr = s.alr := by rw [State.writeMapped_eq]
@[simp] theorem State.writeMapped_ahr (s : State) (k : MappedByte) (b : Byte) : (s.writeMapped k b).ahr = s.ahr := by rw [State.writeMapped_eq]
@[simp] theorem State.writeMapped_ext (s : State) (k : MappedByte) (b : Byte) : (s.writeMapped k b).ext = s.ext := by rw [State.writeMapped_eq]
@[simp] theorem State.writeMapped_delay (s : State) (k : MappedByte) (b : Byte) : (s.writeMapped k b).delay = s.delay := by rw [State.writeMapped_eq]
@[simp] theorem State.writeMapped_nmiArmed (s : State) (k : MappedByte) (b : Byte) : (s.writeMapped k b).nmiArmed = s.nmiArmed := by rw [State.writeMapped_eq]
@[simp] theorem State.writeMapped_nmiPending (s : State) (k : MappedByte) (b : Byte) : (s.writeMapped k b).nmiPending = s.nmiPending := by rw [State.writeMapped_eq]
@[simp] theorem State.writeMapped_run (s : State) (k : MappedByte) (b : Byte) : (s.writeMapped k b).run = s.run := by rw [State.writeMapped_eq]
@[simp] theorem State.writeMapped_busReleased (s : State) (k : MappedByte) (b : Byte) : (s.writeMapped k b).busReleased = s.busReleased := by rw [State.writeMapped_eq]
@[simp] theorem State.writeMapped_zdiv (s : State) (k : MappedByte) (b : Byte) : (s.writeMapped k b).zdiv = s.zdiv := by rw [State.writeMapped_eq]
@[simp] theorem State.writeMapped_dbrk (s : State) (k : MappedByte) (b : Byte) : (s.writeMapped k b).dbrk = s.dbrk := by rw [State.writeMapped_eq]
@[simp] theorem State.writeMapped_retdShadow (s : State) (k : MappedByte) (b : Byte) : (s.writeMapped k b).retdShadow = s.retdShadow := by rw [State.writeMapped_eq]
@[simp] theorem State.writeMapped_mem (s : State) (k : MappedByte) (b : Byte) : (s.writeMapped k b).mem = s.mem := by rw [State.writeMapped_eq]
@[simp] theorem State.writeMapped_cfg (s : State) (k : MappedByte) (b : Byte) : (s.writeMapped k b).cfg = s.cfg := by rw [State.writeMapped_eq]
@[simp] theorem State.writeMapped_inputs (s : State) (k : MappedByte) (b : Byte) : (s.writeMapped k b).inputs = s.inputs := by rw [State.writeMapped_eq]
@[simp] theorem State.writeMapped_freeCount (s : State) (k : MappedByte) (b : Byte) : (s.writeMapped k b).freeCount = s.freeCount := by rw [State.writeMapped_eq]
@[simp] theorem State.writeMapped_storesNow (s : State) (k : MappedByte) (b : Byte) : (s.writeMapped k b).storesNow = s.storesNow := by rw [State.writeMapped_eq]
@[simp] theorem State.writeMapped_storesPrev (s : State) (k : MappedByte) (b : Byte) : (s.writeMapped k b).storesPrev = s.storesPrev := by rw [State.writeMapped_eq]
@[simp] theorem State.writeMapped_storesPrev2 (s : State) (k : MappedByte) (b : Byte) : (s.writeMapped k b).storesPrev2 = s.storesPrev2 := by rw [State.writeMapped_eq]
@[simp] theorem State.writeMapped_reg (s : State) (k : MappedByte) (b : Byte) (r : Reg) : (s.writeMapped k b).reg r = s.reg r :=
  State.reg_congr (State.writeMapped_regs s k b) r

@[simp] theorem State.writeByte_regs (s : State) (a : Nat) (b : Byte) : (s.writeByte a b).regs = s.regs := by rw [State.writeByte_eq]
@[simp] theorem State.writeByte_pc (s : State) (a : Nat) (b : Byte) : (s.writeByte a b).pc = s.pc := by rw [State.writeByte_eq]
@[simp] theorem State.writeByte_psr (s : State) (a : Nat) (b : Byte) : (s.writeByte a b).psr = s.psr := by rw [State.writeByte_eq]
@[simp] theorem State.writeByte_sp (s : State) (a : Nat) (b : Byte) : (s.writeByte a b).sp = s.sp := by rw [State.writeByte_eq]
@[simp] theorem State.writeByte_alr (s : State) (a : Nat) (b : Byte) : (s.writeByte a b).alr = s.alr := by rw [State.writeByte_eq]
@[simp] theorem State.writeByte_ahr (s : State) (a : Nat) (b : Byte) : (s.writeByte a b).ahr = s.ahr := by rw [State.writeByte_eq]
@[simp] theorem State.writeByte_ext (s : State) (a : Nat) (b : Byte) : (s.writeByte a b).ext = s.ext := by rw [State.writeByte_eq]
@[simp] theorem State.writeByte_delay (s : State) (a : Nat) (b : Byte) : (s.writeByte a b).delay = s.delay := by rw [State.writeByte_eq]
@[simp] theorem State.writeByte_nmiArmed (s : State) (a : Nat) (b : Byte) : (s.writeByte a b).nmiArmed = s.nmiArmed := by rw [State.writeByte_eq]
@[simp] theorem State.writeByte_nmiPending (s : State) (a : Nat) (b : Byte) : (s.writeByte a b).nmiPending = s.nmiPending := by rw [State.writeByte_eq]
@[simp] theorem State.writeByte_run (s : State) (a : Nat) (b : Byte) : (s.writeByte a b).run = s.run := by rw [State.writeByte_eq]
@[simp] theorem State.writeByte_busReleased (s : State) (a : Nat) (b : Byte) : (s.writeByte a b).busReleased = s.busReleased := by rw [State.writeByte_eq]
@[simp] theorem State.writeByte_zdiv (s : State) (a : Nat) (b : Byte) : (s.writeByte a b).zdiv = s.zdiv := by rw [State.writeByte_eq]
@[simp] theorem State.writeByte_dbrk (s : State) (a : Nat) (b : Byte) : (s.writeByte a b).dbrk = s.dbrk := by rw [State.writeByte_eq]
@[simp] theorem State.writeByte_retdShadow (s : State) (a : Nat) (b : Byte) : (s.writeByte a b).retdShadow = s.retdShadow := by rw [State.writeByte_eq]
@[simp] theorem State.writeByte_cfg (s : State) (a : Nat) (b : Byte) : (s.writeByte a b).cfg = s.cfg := by rw [State.writeByte_eq]
@[simp] theorem State.writeByte_inputs (s : State) (a : Nat) (b : Byte) : (s.writeByte a b).inputs = s.inputs := by rw [State.writeByte_eq]
@[simp] theorem State.writeByte_freeCount (s : State) (a : Nat) (b : Byte) : (s.writeByte a b).freeCount = s.freeCount := by rw [State.writeByte_eq]
@[simp] theorem State.writeByte_storesNow (s : State) (a : Nat) (b : Byte) : (s.writeByte a b).storesNow = s.storesNow := by rw [State.writeByte_eq]
@[simp] theorem State.writeByte_storesPrev (s : State) (a : Nat) (b : Byte) : (s.writeByte a b).storesPrev = s.storesPrev := by rw [State.writeByte_eq]
@[simp] theorem State.writeByte_storesPrev2 (s : State) (a : Nat) (b : Byte) : (s.writeByte a b).storesPrev2 = s.storesPrev2 := by rw [State.writeByte_eq]
@[simp] theorem State.writeByte_reg (s : State) (a : Nat) (b : Byte) (r : Reg) : (s.writeByte a b).reg r = s.reg r :=
  State.reg_congr (State.writeByte_regs s a b) r

/-- A write of several bytes changes memory and the mapped registers alone. -/
theorem State.writeBytes_eq (s : State) (x v : Word) (n : Nat) :
    s.writeBytes x v n =
      { s with
        ttbr := (s.writeBytes x v n).ttbr
        ttbrWe := (s.writeBytes x v n).ttbrWe
        dcr := (s.writeBytes x v n).dcr
        dcr2 := (s.writeBytes x v n).dcr2
        dsr := (s.writeBytes x v n).dsr
        dsr2 := (s.writeBytes x v n).dsr2
        ibar0 := (s.writeBytes x v n).ibar0
        ibar1 := (s.writeBytes x v n).ibar1
        ibar2 := (s.writeBytes x v n).ibar2
        dbar := (s.writeBytes x v n).dbar
        mem := (s.writeBytes x v n).mem
        debugCtl := (s.writeBytes x v n).debugCtl } := by
  induction n with
  | zero => rfl
  | succ n ih => rw [State.writeBytes, State.writeByte_eq, ih]

@[simp] theorem State.writeBytes_regs (s : State) (x v : Word) (n : Nat) : (s.writeBytes x v n).regs = s.regs := by rw [State.writeBytes_eq]
@[simp] theorem State.writeBytes_pc (s : State) (x v : Word) (n : Nat) : (s.writeBytes x v n).pc = s.pc := by rw [State.writeBytes_eq]
@[simp] theorem State.writeBytes_psr (s : State) (x v : Word) (n : Nat) : (s.writeBytes x v n).psr = s.psr := by rw [State.writeBytes_eq]
@[simp] theorem State.writeBytes_sp (s : State) (x v : Word) (n : Nat) : (s.writeBytes x v n).sp = s.sp := by rw [State.writeBytes_eq]
@[simp] theorem State.writeBytes_alr (s : State) (x v : Word) (n : Nat) : (s.writeBytes x v n).alr = s.alr := by rw [State.writeBytes_eq]
@[simp] theorem State.writeBytes_ahr (s : State) (x v : Word) (n : Nat) : (s.writeBytes x v n).ahr = s.ahr := by rw [State.writeBytes_eq]
@[simp] theorem State.writeBytes_ext (s : State) (x v : Word) (n : Nat) : (s.writeBytes x v n).ext = s.ext := by rw [State.writeBytes_eq]
@[simp] theorem State.writeBytes_delay (s : State) (x v : Word) (n : Nat) : (s.writeBytes x v n).delay = s.delay := by rw [State.writeBytes_eq]
@[simp] theorem State.writeBytes_nmiArmed (s : State) (x v : Word) (n : Nat) : (s.writeBytes x v n).nmiArmed = s.nmiArmed := by rw [State.writeBytes_eq]
@[simp] theorem State.writeBytes_nmiPending (s : State) (x v : Word) (n : Nat) : (s.writeBytes x v n).nmiPending = s.nmiPending := by rw [State.writeBytes_eq]
@[simp] theorem State.writeBytes_run (s : State) (x v : Word) (n : Nat) : (s.writeBytes x v n).run = s.run := by rw [State.writeBytes_eq]
@[simp] theorem State.writeBytes_busReleased (s : State) (x v : Word) (n : Nat) : (s.writeBytes x v n).busReleased = s.busReleased := by rw [State.writeBytes_eq]
@[simp] theorem State.writeBytes_zdiv (s : State) (x v : Word) (n : Nat) : (s.writeBytes x v n).zdiv = s.zdiv := by rw [State.writeBytes_eq]
@[simp] theorem State.writeBytes_dbrk (s : State) (x v : Word) (n : Nat) : (s.writeBytes x v n).dbrk = s.dbrk := by rw [State.writeBytes_eq]
@[simp] theorem State.writeBytes_retdShadow (s : State) (x v : Word) (n : Nat) : (s.writeBytes x v n).retdShadow = s.retdShadow := by rw [State.writeBytes_eq]
@[simp] theorem State.writeBytes_cfg (s : State) (x v : Word) (n : Nat) : (s.writeBytes x v n).cfg = s.cfg := by rw [State.writeBytes_eq]
@[simp] theorem State.writeBytes_inputs (s : State) (x v : Word) (n : Nat) : (s.writeBytes x v n).inputs = s.inputs := by rw [State.writeBytes_eq]
@[simp] theorem State.writeBytes_freeCount (s : State) (x v : Word) (n : Nat) : (s.writeBytes x v n).freeCount = s.freeCount := by rw [State.writeBytes_eq]
@[simp] theorem State.writeBytes_storesNow (s : State) (x v : Word) (n : Nat) : (s.writeBytes x v n).storesNow = s.storesNow := by rw [State.writeBytes_eq]
@[simp] theorem State.writeBytes_storesPrev (s : State) (x v : Word) (n : Nat) : (s.writeBytes x v n).storesPrev = s.storesPrev := by rw [State.writeBytes_eq]
@[simp] theorem State.writeBytes_storesPrev2 (s : State) (x v : Word) (n : Nat) : (s.writeBytes x v n).storesPrev2 = s.storesPrev2 := by rw [State.writeBytes_eq]
@[simp] theorem State.writeBytes_reg (s : State) (x v : Word) (n : Nat) (r : Reg) : (s.writeBytes x v n).reg r = s.reg r :=
  State.reg_congr (State.writeBytes_regs s x v n) r

/-- A store changes memory, the mapped registers and the traces of accesses alone. -/
theorem State.store_eq (s : State) (size : Size) (x v : Word) :
    s.store size x v =
      { s with
        ttbr := (s.store size x v).ttbr
        ttbrWe := (s.store size x v).ttbrWe
        dcr := (s.store size x v).dcr
        dcr2 := (s.store size x v).dcr2
        dsr := (s.store size x v).dsr
        dsr2 := (s.store size x v).dsr2
        ibar0 := (s.store size x v).ibar0
        ibar1 := (s.store size x v).ibar1
        ibar2 := (s.store size x v).ibar2
        dbar := (s.store size x v).dbar
        mem := (s.store size x v).mem
        debugCtl := (s.store size x v).debugCtl
        dbrk := (s.store size x v).dbrk
        storesNow := (s.store size x v).storesNow } := by
  unfold State.store
  rw [State.writeBytes_eq, State.noteWrite_eq]

@[simp] theorem State.store_regs (s : State) (size : Size) (x v : Word) : (s.store size x v).regs = s.regs := by rw [State.store_eq]
@[simp] theorem State.store_pc (s : State) (size : Size) (x v : Word) : (s.store size x v).pc = s.pc := by rw [State.store_eq]
@[simp] theorem State.store_psr (s : State) (size : Size) (x v : Word) : (s.store size x v).psr = s.psr := by rw [State.store_eq]
@[simp] theorem State.store_sp (s : State) (size : Size) (x v : Word) : (s.store size x v).sp = s.sp := by rw [State.store_eq]
@[simp] theorem State.store_alr (s : State) (size : Size) (x v : Word) : (s.store size x v).alr = s.alr := by rw [State.store_eq]
@[simp] theorem State.store_ahr (s : State) (size : Size) (x v : Word) : (s.store size x v).ahr = s.ahr := by rw [State.store_eq]
@[simp] theorem State.store_ext (s : State) (size : Size) (x v : Word) : (s.store size x v).ext = s.ext := by rw [State.store_eq]
@[simp] theorem State.store_delay (s : State) (size : Size) (x v : Word) : (s.store size x v).delay = s.delay := by rw [State.store_eq]
@[simp] theorem State.store_nmiArmed (s : State) (size : Size) (x v : Word) : (s.store size x v).nmiArmed = s.nmiArmed := by rw [State.store_eq]
@[simp] theorem State.store_nmiPending (s : State) (size : Size) (x v : Word) : (s.store size x v).nmiPending = s.nmiPending := by rw [State.store_eq]
@[simp] theorem State.store_run (s : State) (size : Size) (x v : Word) : (s.store size x v).run = s.run := by rw [State.store_eq]
@[simp] theorem State.store_busReleased (s : State) (size : Size) (x v : Word) : (s.store size x v).busReleased = s.busReleased := by rw [State.store_eq]
@[simp] theorem State.store_zdiv (s : State) (size : Size) (x v : Word) : (s.store size x v).zdiv = s.zdiv := by rw [State.store_eq]
@[simp] theorem State.store_retdShadow (s : State) (size : Size) (x v : Word) : (s.store size x v).retdShadow = s.retdShadow := by rw [State.store_eq]
@[simp] theorem State.store_cfg (s : State) (size : Size) (x v : Word) : (s.store size x v).cfg = s.cfg := by rw [State.store_eq]
@[simp] theorem State.store_inputs (s : State) (size : Size) (x v : Word) : (s.store size x v).inputs = s.inputs := by rw [State.store_eq]
@[simp] theorem State.store_freeCount (s : State) (size : Size) (x v : Word) : (s.store size x v).freeCount = s.freeCount := by rw [State.store_eq]
@[simp] theorem State.store_storesPrev (s : State) (size : Size) (x v : Word) : (s.store size x v).storesPrev = s.storesPrev := by rw [State.store_eq]
@[simp] theorem State.store_storesPrev2 (s : State) (size : Size) (x v : Word) : (s.store size x v).storesPrev2 = s.storesPrev2 := by rw [State.store_eq]
@[simp] theorem State.store_reg (s : State) (size : Size) (x v : Word) (r : Reg) : (s.store size x v).reg r = s.reg r :=
  State.reg_congr (State.store_regs s size x v) r

/-! ### The stack -/

/-- A push changes SP, memory, the mapped registers and the traces of accesses alone. -/
theorem State.push_eq (s : State) (agent : Agent) (v : Word) :
    s.push agent v =
      { s with
        sp := s.sp - 4#32
        ttbr := (s.push agent v).ttbr
        ttbrWe := (s.push agent v).ttbrWe
        dcr := (s.push agent v).dcr
        dcr2 := (s.push agent v).dcr2
        dsr := (s.push agent v).dsr
        dsr2 := (s.push agent v).dsr2
        ibar0 := (s.push agent v).ibar0
        ibar1 := (s.push agent v).ibar1
        ibar2 := (s.push agent v).ibar2
        dbar := (s.push agent v).dbar
        mem := (s.push agent v).mem
        debugCtl := (s.push agent v).debugCtl
        dbrk := (s.push agent v).dbrk
        storesNow := (s.push agent v).storesNow } := by
  unfold State.push
  cases agent
  · simp only []; rw [State.store_eq]
  · simp only []; rw [State.writeBytes_eq, State.touch_eq]

@[simp] theorem State.push_regs (s : State) (agent : Agent) (v : Word) : (s.push agent v).regs = s.regs := by rw [State.push_eq]
@[simp] theorem State.push_pc (s : State) (agent : Agent) (v : Word) : (s.push agent v).pc = s.pc := by rw [State.push_eq]
@[simp] theorem State.push_psr (s : State) (agent : Agent) (v : Word) : (s.push agent v).psr = s.psr := by rw [State.push_eq]
@[simp] theorem State.push_alr (s : State) (agent : Agent) (v : Word) : (s.push agent v).alr = s.alr := by rw [State.push_eq]
@[simp] theorem State.push_ahr (s : State) (agent : Agent) (v : Word) : (s.push agent v).ahr = s.ahr := by rw [State.push_eq]
@[simp] theorem State.push_ext (s : State) (agent : Agent) (v : Word) : (s.push agent v).ext = s.ext := by rw [State.push_eq]
@[simp] theorem State.push_delay (s : State) (agent : Agent) (v : Word) : (s.push agent v).delay = s.delay := by rw [State.push_eq]
@[simp] theorem State.push_nmiArmed (s : State) (agent : Agent) (v : Word) : (s.push agent v).nmiArmed = s.nmiArmed := by rw [State.push_eq]
@[simp] theorem State.push_nmiPending (s : State) (agent : Agent) (v : Word) : (s.push agent v).nmiPending = s.nmiPending := by rw [State.push_eq]
@[simp] theorem State.push_run (s : State) (agent : Agent) (v : Word) : (s.push agent v).run = s.run := by rw [State.push_eq]
@[simp] theorem State.push_busReleased (s : State) (agent : Agent) (v : Word) : (s.push agent v).busReleased = s.busReleased := by rw [State.push_eq]
@[simp] theorem State.push_zdiv (s : State) (agent : Agent) (v : Word) : (s.push agent v).zdiv = s.zdiv := by rw [State.push_eq]
@[simp] theorem State.push_retdShadow (s : State) (agent : Agent) (v : Word) : (s.push agent v).retdShadow = s.retdShadow := by rw [State.push_eq]
@[simp] theorem State.push_cfg (s : State) (agent : Agent) (v : Word) : (s.push agent v).cfg = s.cfg := by rw [State.push_eq]
@[simp] theorem State.push_inputs (s : State) (agent : Agent) (v : Word) : (s.push agent v).inputs = s.inputs := by rw [State.push_eq]
@[simp] theorem State.push_freeCount (s : State) (agent : Agent) (v : Word) : (s.push agent v).freeCount = s.freeCount := by rw [State.push_eq]
@[simp] theorem State.push_storesPrev (s : State) (agent : Agent) (v : Word) : (s.push agent v).storesPrev = s.storesPrev := by rw [State.push_eq]
@[simp] theorem State.push_storesPrev2 (s : State) (agent : Agent) (v : Word) : (s.push agent v).storesPrev2 = s.storesPrev2 := by rw [State.push_eq]
@[simp] theorem State.push_reg (s : State) (agent : Agent) (v : Word) (r : Reg) : (s.push agent v).reg r = s.reg r :=
  State.reg_congr (State.push_regs s agent v) r
@[simp] theorem State.push_sp (s : State) (agent : Agent) (v : Word) : (s.push agent v).sp = s.sp - 4#32 := by rw [State.push_eq]
@[simp] theorem State.push_hardware_dbrk (s : State) (v : Word) : (s.push .hardware v).dbrk = s.dbrk := by
  simp [State.push]
@[simp] theorem State.push_hardware_storesNow (s : State) (v : Word) : (s.push .hardware v).storesNow = s.storesNow := by
  simp [State.push]

/-- A pop changes SP and the traces of accesses alone. -/
theorem State.pop_eq (s : State) :
    s.pop = { s with sp := s.sp + 4#32, debugCtl := s.pop.debugCtl, dbrk := s.pop.dbrk } := by
  unfold State.pop
  rw [State.noteRead_eq]

@[simp] theorem State.pop_regs (s : State) : (s.pop).regs = s.regs := by rw [State.pop_eq]
@[simp] theorem State.pop_pc (s : State) : (s.pop).pc = s.pc := by rw [State.pop_eq]
@[simp] theorem State.pop_psr (s : State) : (s.pop).psr = s.psr := by rw [State.pop_eq]
@[simp] theorem State.pop_alr (s : State) : (s.pop).alr = s.alr := by rw [State.pop_eq]
@[simp] theorem State.pop_ahr (s : State) : (s.pop).ahr = s.ahr := by rw [State.pop_eq]
@[simp] theorem State.pop_ttbr (s : State) : (s.pop).ttbr = s.ttbr := by rw [State.pop_eq]
@[simp] theorem State.pop_ttbrWe (s : State) : (s.pop).ttbrWe = s.ttbrWe := by rw [State.pop_eq]
@[simp] theorem State.pop_dcr (s : State) : (s.pop).dcr = s.dcr := by rw [State.pop_eq]
@[simp] theorem State.pop_dcr2 (s : State) : (s.pop).dcr2 = s.dcr2 := by rw [State.pop_eq]
@[simp] theorem State.pop_dsr (s : State) : (s.pop).dsr = s.dsr := by rw [State.pop_eq]
@[simp] theorem State.pop_dsr2 (s : State) : (s.pop).dsr2 = s.dsr2 := by rw [State.pop_eq]
@[simp] theorem State.pop_ibar0 (s : State) : (s.pop).ibar0 = s.ibar0 := by rw [State.pop_eq]
@[simp] theorem State.pop_ibar1 (s : State) : (s.pop).ibar1 = s.ibar1 := by rw [State.pop_eq]
@[simp] theorem State.pop_ibar2 (s : State) : (s.pop).ibar2 = s.ibar2 := by rw [State.pop_eq]
@[simp] theorem State.pop_dbar (s : State) : (s.pop).dbar = s.dbar := by rw [State.pop_eq]
@[simp] theorem State.pop_ext (s : State) : (s.pop).ext = s.ext := by rw [State.pop_eq]
@[simp] theorem State.pop_delay (s : State) : (s.pop).delay = s.delay := by rw [State.pop_eq]
@[simp] theorem State.pop_nmiArmed (s : State) : (s.pop).nmiArmed = s.nmiArmed := by rw [State.pop_eq]
@[simp] theorem State.pop_nmiPending (s : State) : (s.pop).nmiPending = s.nmiPending := by rw [State.pop_eq]
@[simp] theorem State.pop_run (s : State) : (s.pop).run = s.run := by rw [State.pop_eq]
@[simp] theorem State.pop_busReleased (s : State) : (s.pop).busReleased = s.busReleased := by rw [State.pop_eq]
@[simp] theorem State.pop_zdiv (s : State) : (s.pop).zdiv = s.zdiv := by rw [State.pop_eq]
@[simp] theorem State.pop_retdShadow (s : State) : (s.pop).retdShadow = s.retdShadow := by rw [State.pop_eq]
@[simp] theorem State.pop_mem (s : State) : (s.pop).mem = s.mem := by rw [State.pop_eq]
@[simp] theorem State.pop_cfg (s : State) : (s.pop).cfg = s.cfg := by rw [State.pop_eq]
@[simp] theorem State.pop_inputs (s : State) : (s.pop).inputs = s.inputs := by rw [State.pop_eq]
@[simp] theorem State.pop_freeCount (s : State) : (s.pop).freeCount = s.freeCount := by rw [State.pop_eq]
@[simp] theorem State.pop_storesNow (s : State) : (s.pop).storesNow = s.storesNow := by rw [State.pop_eq]
@[simp] theorem State.pop_storesPrev (s : State) : (s.pop).storesPrev = s.storesPrev := by rw [State.pop_eq]
@[simp] theorem State.pop_storesPrev2 (s : State) : (s.pop).storesPrev2 = s.storesPrev2 := by rw [State.pop_eq]
@[simp] theorem State.pop_reg (s : State) (r : Reg) : (s.pop).reg r = s.reg r :=
  State.reg_congr (State.pop_regs s) r
@[simp] theorem State.pop_sp (s : State) : s.pop.sp = s.sp + 4#32 := by rw [State.pop_eq]

/-! ### Exceptions -/

@[simp] theorem State.trapEntry_regs (s : State) (agent : Agent) (offset ret : Word) (level : Option (BitVec 4)) : (s.trapEntry agent offset ret level).regs = s.regs := by
  simp only [State.trapEntry, State.loadVector, State.touch_regs, State.push_regs]
@[simp] theorem State.trapEntry_alr (s : State) (agent : Agent) (offset ret : Word) (level : Option (BitVec 4)) : (s.trapEntry agent offset ret level).alr = s.alr := by
  simp only [State.trapEntry, State.loadVector, State.touch_alr, State.push_alr]
@[simp] theorem State.trapEntry_ahr (s : State) (agent : Agent) (offset ret : Word) (level : Option (BitVec 4)) : (s.trapEntry agent offset ret level).ahr = s.ahr := by
  simp only [State.trapEntry, State.loadVector, State.touch_ahr, State.push_ahr]
@[simp] theorem State.trapEntry_delay (s : State) (agent : Agent) (offset ret : Word) (level : Option (BitVec 4)) : (s.trapEntry agent offset ret level).delay = s.delay := by
  simp only [State.trapEntry, State.loadVector, State.touch_delay, State.push_delay]
@[simp] theorem State.trapEntry_nmiArmed (s : State) (agent : Agent) (offset ret : Word) (level : Option (BitVec 4)) : (s.trapEntry agent offset ret level).nmiArmed = s.nmiArmed := by
  simp only [State.trapEntry, State.loadVector, State.touch_nmiArmed, State.push_nmiArmed]
@[simp] theorem State.trapEntry_nmiPending (s : State) (agent : Agent) (offset ret : Word) (level : Option (BitVec 4)) : (s.trapEntry agent offset ret level).nmiPending = s.nmiPending := by
  simp only [State.trapEntry, State.loadVector, State.touch_nmiPending, State.push_nmiPending]
@[simp] theorem State.trapEntry_busReleased (s : State) (agent : Agent) (offset ret : Word) (level : Option (BitVec 4)) : (s.trapEntry agent offset ret level).busReleased = s.busReleased := by
  simp only [State.trapEntry, State.loadVector, State.touch_busReleased, State.push_busReleased]
@[simp] theorem State.trapEntry_zdiv (s : State) (agent : Agent) (offset ret : Word) (level : Option (BitVec 4)) : (s.trapEntry agent offset ret level).zdiv = s.zdiv := by
  simp only [State.trapEntry, State.loadVector, State.touch_zdiv, State.push_zdiv]
@[simp] theorem State.trapEntry_retdShadow (s : State) (agent : Agent) (offset ret : Word) (level : Option (BitVec 4)) : (s.trapEntry agent offset ret level).retdShadow = s.retdShadow := by
  simp only [State.trapEntry, State.loadVector, State.touch_retdShadow, State.push_retdShadow]
@[simp] theorem State.trapEntry_cfg (s : State) (agent : Agent) (offset ret : Word) (level : Option (BitVec 4)) : (s.trapEntry agent offset ret level).cfg = s.cfg := by
  simp only [State.trapEntry, State.loadVector, State.touch_cfg, State.push_cfg]
@[simp] theorem State.trapEntry_inputs (s : State) (agent : Agent) (offset ret : Word) (level : Option (BitVec 4)) : (s.trapEntry agent offset ret level).inputs = s.inputs := by
  simp only [State.trapEntry, State.loadVector, State.touch_inputs, State.push_inputs]
@[simp] theorem State.trapEntry_freeCount (s : State) (agent : Agent) (offset ret : Word) (level : Option (BitVec 4)) : (s.trapEntry agent offset ret level).freeCount = s.freeCount := by
  simp only [State.trapEntry, State.loadVector, State.touch_freeCount, State.push_freeCount]
@[simp] theorem State.trapEntry_storesPrev (s : State) (agent : Agent) (offset ret : Word) (level : Option (BitVec 4)) : (s.trapEntry agent offset ret level).storesPrev = s.storesPrev := by
  simp only [State.trapEntry, State.loadVector, State.touch_storesPrev, State.push_storesPrev]
@[simp] theorem State.trapEntry_storesPrev2 (s : State) (agent : Agent) (offset ret : Word) (level : Option (BitVec 4)) : (s.trapEntry agent offset ret level).storesPrev2 = s.storesPrev2 := by
  simp only [State.trapEntry, State.loadVector, State.touch_storesPrev2, State.push_storesPrev2]
@[simp] theorem State.trapEntry_reg (s : State) (agent : Agent) (offset ret : Word) (level : Option (BitVec 4)) (r : Reg) : (s.trapEntry agent offset ret level).reg r = s.reg r :=
  State.reg_congr (State.trapEntry_regs s agent offset ret level) r
@[simp] theorem State.trapEntry_sp (s : State) (agent : Agent) (offset ret : Word) (level : Option (BitVec 4)) : (s.trapEntry agent offset ret level).sp = s.sp - 8#32 := by
  simp only [State.trapEntry, State.loadVector, State.touch_sp, State.push_sp, BitVec.sub_sub]; rfl
@[simp] theorem State.trapEntry_ext (s : State) (agent : Agent) (offset ret : Word) (level : Option (BitVec 4)) : (s.trapEntry agent offset ret level).ext = .none := rfl
@[simp] theorem State.trapEntry_run (s : State) (agent : Agent) (offset ret : Word) (level : Option (BitVec 4)) : (s.trapEntry agent offset ret level).run = .running := rfl
@[simp] theorem State.trapEntry_hardware_dbrk (s : State) (offset ret : Word) (level : Option (BitVec 4)) : (s.trapEntry .hardware offset ret level).dbrk = s.dbrk := by
  simp only [State.trapEntry, State.loadVector, State.touch_dbrk, State.push_hardware_dbrk]
@[simp] theorem State.trapEntry_hardware_storesNow (s : State) (offset ret : Word) (level : Option (BitVec 4)) : (s.trapEntry .hardware offset ret level).storesNow = s.storesNow := by
  simp only [State.trapEntry, State.loadVector, State.touch_storesNow, State.push_hardware_storesNow]

/-- A trap entry changes PC, PSR, SP, EXT, RUN, memory, the mapped registers and the traces of accesses alone. -/
theorem State.trapEntry_eq (s : State) (agent : Agent) (offset ret : Word) (level : Option (BitVec 4)) :
    s.trapEntry agent offset ret level =
      { s with
        sp := s.sp - 8#32
        ext := .none
        run := .running
        pc := (s.trapEntry agent offset ret level).pc
        psr := (s.trapEntry agent offset ret level).psr
        ttbr := (s.trapEntry agent offset ret level).ttbr
        ttbrWe := (s.trapEntry agent offset ret level).ttbrWe
        dcr := (s.trapEntry agent offset ret level).dcr
        dcr2 := (s.trapEntry agent offset ret level).dcr2
        dsr := (s.trapEntry agent offset ret level).dsr
        dsr2 := (s.trapEntry agent offset ret level).dsr2
        ibar0 := (s.trapEntry agent offset ret level).ibar0
        ibar1 := (s.trapEntry agent offset ret level).ibar1
        ibar2 := (s.trapEntry agent offset ret level).ibar2
        dbar := (s.trapEntry agent offset ret level).dbar
        mem := (s.trapEntry agent offset ret level).mem
        debugCtl := (s.trapEntry agent offset ret level).debugCtl
        dbrk := (s.trapEntry agent offset ret level).dbrk
        storesNow := (s.trapEntry agent offset ret level).storesNow } :=
  State.eq_of_fields (State.trapEntry_regs s agent offset ret level) rfl rfl (State.trapEntry_sp s agent offset ret level) (State.trapEntry_alr s agent offset ret level) (State.trapEntry_ahr s agent offset ret level) rfl rfl rfl rfl rfl rfl rfl rfl rfl rfl (State.trapEntry_ext s agent offset ret level) (State.trapEntry_delay s agent offset ret level) (State.trapEntry_nmiArmed s agent offset ret level) (State.trapEntry_nmiPending s agent offset ret level) (State.trapEntry_run s agent offset ret level) (State.trapEntry_busReleased s agent offset ret level) (State.trapEntry_zdiv s agent offset ret level) rfl (State.trapEntry_retdShadow s agent offset ret level) rfl (State.trapEntry_cfg s agent offset ret level) (State.trapEntry_inputs s agent offset ret level) (State.trapEntry_freeCount s agent offset ret level) rfl rfl (State.trapEntry_storesPrev s agent offset ret level) (State.trapEntry_storesPrev2 s agent offset ret level)

@[simp] theorem State.debugEntry_regs (s : State) (ret : Word) (causes causes2 : Byte) : (s.debugEntry ret causes causes2).regs = s.regs := by
  simp only [State.debugEntry, apply_ite, ite_self, State.writeBytes_regs]
@[simp] theorem State.debugEntry_psr (s : State) (ret : Word) (causes causes2 : Byte) : (s.debugEntry ret causes causes2).psr = s.psr := by
  simp only [State.debugEntry, apply_ite, ite_self, State.writeBytes_psr]
@[simp] theorem State.debugEntry_sp (s : State) (ret : Word) (causes causes2 : Byte) : (s.debugEntry ret causes causes2).sp = s.sp := by
  simp only [State.debugEntry, apply_ite, ite_self, State.writeBytes_sp]
@[simp] theorem State.debugEntry_alr (s : State) (ret : Word) (causes causes2 : Byte) : (s.debugEntry ret causes causes2).alr = s.alr := by
  simp only [State.debugEntry, apply_ite, ite_self, State.writeBytes_alr]
@[simp] theorem State.debugEntry_ahr (s : State) (ret : Word) (causes causes2 : Byte) : (s.debugEntry ret causes causes2).ahr = s.ahr := by
  simp only [State.debugEntry, apply_ite, ite_self, State.writeBytes_ahr]
@[simp] theorem State.debugEntry_delay (s : State) (ret : Word) (causes causes2 : Byte) : (s.debugEntry ret causes causes2).delay = s.delay := by
  simp only [State.debugEntry, apply_ite, ite_self, State.writeBytes_delay]
@[simp] theorem State.debugEntry_nmiArmed (s : State) (ret : Word) (causes causes2 : Byte) : (s.debugEntry ret causes causes2).nmiArmed = s.nmiArmed := by
  simp only [State.debugEntry, apply_ite, ite_self, State.writeBytes_nmiArmed]
@[simp] theorem State.debugEntry_nmiPending (s : State) (ret : Word) (causes causes2 : Byte) : (s.debugEntry ret causes causes2).nmiPending = s.nmiPending := by
  simp only [State.debugEntry, apply_ite, ite_self, State.writeBytes_nmiPending]
@[simp] theorem State.debugEntry_run (s : State) (ret : Word) (causes causes2 : Byte) : (s.debugEntry ret causes causes2).run = s.run := by
  simp only [State.debugEntry, apply_ite, ite_self, State.writeBytes_run]
@[simp] theorem State.debugEntry_busReleased (s : State) (ret : Word) (causes causes2 : Byte) : (s.debugEntry ret causes causes2).busReleased = s.busReleased := by
  simp only [State.debugEntry, apply_ite, ite_self, State.writeBytes_busReleased]
@[simp] theorem State.debugEntry_zdiv (s : State) (ret : Word) (causes causes2 : Byte) : (s.debugEntry ret causes causes2).zdiv = s.zdiv := by
  simp only [State.debugEntry, apply_ite, ite_self, State.writeBytes_zdiv]
@[simp] theorem State.debugEntry_dbrk (s : State) (ret : Word) (causes causes2 : Byte) : (s.debugEntry ret causes causes2).dbrk = s.dbrk := by
  simp only [State.debugEntry, apply_ite, ite_self, State.writeBytes_dbrk]
@[simp] theorem State.debugEntry_retdShadow (s : State) (ret : Word) (causes causes2 : Byte) : (s.debugEntry ret causes causes2).retdShadow = s.retdShadow := by
  simp only [State.debugEntry, apply_ite, ite_self, State.writeBytes_retdShadow]
@[simp] theorem State.debugEntry_cfg (s : State) (ret : Word) (causes causes2 : Byte) : (s.debugEntry ret causes causes2).cfg = s.cfg := by
  simp only [State.debugEntry, apply_ite, ite_self, State.writeBytes_cfg]
@[simp] theorem State.debugEntry_inputs (s : State) (ret : Word) (causes causes2 : Byte) : (s.debugEntry ret causes causes2).inputs = s.inputs := by
  simp only [State.debugEntry, apply_ite, ite_self, State.writeBytes_inputs]
@[simp] theorem State.debugEntry_freeCount (s : State) (ret : Word) (causes causes2 : Byte) : (s.debugEntry ret causes causes2).freeCount = s.freeCount := by
  simp only [State.debugEntry, apply_ite, ite_self, State.writeBytes_freeCount]
@[simp] theorem State.debugEntry_storesNow (s : State) (ret : Word) (causes causes2 : Byte) : (s.debugEntry ret causes causes2).storesNow = s.storesNow := by
  simp only [State.debugEntry, apply_ite, ite_self, State.writeBytes_storesNow]
@[simp] theorem State.debugEntry_storesPrev (s : State) (ret : Word) (causes causes2 : Byte) : (s.debugEntry ret causes causes2).storesPrev = s.storesPrev := by
  simp only [State.debugEntry, apply_ite, ite_self, State.writeBytes_storesPrev]
@[simp] theorem State.debugEntry_storesPrev2 (s : State) (ret : Word) (causes causes2 : Byte) : (s.debugEntry ret causes causes2).storesPrev2 = s.storesPrev2 := by
  simp only [State.debugEntry, apply_ite, ite_self, State.writeBytes_storesPrev2]
@[simp] theorem State.debugEntry_reg (s : State) (ret : Word) (causes causes2 : Byte) (r : Reg) : (s.debugEntry ret causes causes2).reg r = s.reg r :=
  State.reg_congr (State.debugEntry_regs s ret causes causes2) r
@[simp] theorem State.debugEntry_ext (s : State) (ret : Word) (causes causes2 : Byte) : (s.debugEntry ret causes causes2).ext = .none := rfl

/-- The debugging exception changes PC, EXT, memory and the mapped registers alone. -/
theorem State.debugEntry_eq (s : State) (ret : Word) (causes causes2 : Byte) :
    s.debugEntry ret causes causes2 =
      { s with
        ext := .none
        pc := (s.debugEntry ret causes causes2).pc
        dcr := (s.debugEntry ret causes causes2).dcr
        dsr := (s.debugEntry ret causes causes2).dsr
        dsr2 := (s.debugEntry ret causes causes2).dsr2
        ttbr := (s.debugEntry ret causes causes2).ttbr
        ttbrWe := (s.debugEntry ret causes causes2).ttbrWe
        dcr2 := (s.debugEntry ret causes causes2).dcr2
        ibar0 := (s.debugEntry ret causes causes2).ibar0
        ibar1 := (s.debugEntry ret causes causes2).ibar1
        ibar2 := (s.debugEntry ret causes causes2).ibar2
        dbar := (s.debugEntry ret causes causes2).dbar
        mem := (s.debugEntry ret causes causes2).mem
        debugCtl := (s.debugEntry ret causes causes2).debugCtl } :=
  State.eq_of_fields (State.debugEntry_regs s ret causes causes2) rfl (State.debugEntry_psr s ret causes causes2) (State.debugEntry_sp s ret causes causes2) (State.debugEntry_alr s ret causes causes2) (State.debugEntry_ahr s ret causes causes2) rfl rfl rfl rfl rfl rfl rfl rfl rfl rfl (State.debugEntry_ext s ret causes causes2) (State.debugEntry_delay s ret causes causes2) (State.debugEntry_nmiArmed s ret causes causes2) (State.debugEntry_nmiPending s ret causes causes2) (State.debugEntry_run s ret causes causes2) (State.debugEntry_busReleased s ret causes causes2) (State.debugEntry_zdiv s ret causes causes2) (State.debugEntry_dbrk s ret causes causes2) (State.debugEntry_retdShadow s ret causes causes2) rfl (State.debugEntry_cfg s ret causes causes2) (State.debugEntry_inputs s ret causes causes2) (State.debugEntry_freeCount s ret causes causes2) rfl (State.debugEntry_storesNow s ret causes causes2) (State.debugEntry_storesPrev s ret causes causes2) (State.debugEntry_storesPrev2 s ret causes causes2)

end Sys2Proof.Machine
end

