-- ==== Sys2Proof/Laws/Bus.lean ====
section
/-! SUPPORT. Reading bytes back after writes, numbers in memory, and the canonical form of memory kept by every write. -/

namespace Sys2Proof.Machine

/-! ### What a read depends on -/

/-- A read of a byte depends on memory, the mapped registers, the parameters and the step's number alone. -/
theorem State.readByte_congr {s t : State} (hm : MappedFrame s t) (hmem : t.mem = s.mem) (hc : t.cfg = s.cfg)
    (hf : t.freeCount = s.freeCount) : SameMemory s t := by
  intro access a
  unfold State.readByte
  cases mappedByte? a with
  | some r => cases r <;> simp [State.readMapped, hm.ttbr, hm.dcr, hm.dcr2, hm.dsr, hm.dsr2, hm.ibar0, hm.ibar1, hm.ibar2, hm.dbar]
  | none => simp [hmem, hc, hf]

/-- Bus addresses depend on the parameters alone. -/
theorem State.byteAddress_congr {s t : State} (h : t.cfg = s.cfg) (x : Word) (i : Nat) :
    t.byteAddress x i = s.byteAddress x i := by
  simp [State.byteAddress, h]

/-- The addresses of a block depend on the parameters alone. -/
theorem State.addresses_congr {s t : State} (h : t.cfg = s.cfg) (x : Word) (n : Nat) :
    t.addresses x n = s.addresses x n := by
  simp [State.addresses, State.byteAddress_congr h]

/-- A number in memory depends on its bytes alone. -/
theorem State.numberAt_congr {s t : State} {access access' : Nat} {x : Word} {n : Nat} (hc : t.cfg = s.cfg)
    (h : ∀ a ∈ s.addresses x n, t.readByte access' a = s.readByte access a) :
    t.numberAt access' x n = s.numberAt access x n := by
  induction n with
  | zero => rfl
  | succ n ih =>
    simp only [State.numberAt, State.byteAddress_congr hc]
    rw [ih fun a ha => h a ?_, h _ ?_]
    · simp [State.addresses]; exact ⟨n, by omega, rfl⟩
    · simp only [State.addresses, List.mem_map, List.mem_range] at ha ⊢
      obtain ⟨i, hi, rfl⟩ := ha
      exact ⟨i, by omega, rfl⟩

/-- A number of `n` bytes is less than `256 ^ n`. -/
theorem State.numberAt_lt (s : State) (access : Nat) (x : Word) (n : Nat) :
    s.numberAt access x n < 256 ^ n := by
  induction n with
  | zero => simp [State.numberAt]
  | succ n ih =>
    simp only [State.numberAt, pow_succ]
    have := (s.readByte access (s.byteAddress x n)).isLt
    nlinarith

/-- A byte appended below. -/
theorem toNat_append_byte {n : Nat} (hi : BitVec n) (lo : Byte) : (hi ++ lo).toNat = hi.toNat * 256 + lo.toNat := by
  rw [BitVec.toNat_append, ← Nat.shiftLeft_add_eq_or_of_lt lo.isLt, Nat.shiftLeft_eq]

/-- A word read is the number in its four bytes. -/
theorem State.read32_toNat (s : State) (access : Nat) (x : Word) :
    (s.read32 access x).toNat = s.numberAt access x 4 := by
  simp only [State.read32, State.numberAt, toNat_append_byte]
  ring

/-- A half word read is the number in its two bytes. -/
theorem State.read16_toNat (s : State) (access : Nat) (x : Word) :
    (s.read16 access x).toNat = s.numberAt access x 2 := by
  simp only [State.read16, State.numberAt, toNat_append_byte]
  ring

/-- A byte read is the number in its one byte. -/
theorem State.read8_toNat (s : State) (access : Nat) (x : Word) :
    (s.read8 access x).toNat = s.numberAt access x 1 := by
  simp [State.read8, State.numberAt]

/-! ### Bytes of a word -/

/-- The bits of the mask of one byte. -/
theorem getLsbD_byteMask (n : Nat) : (0xFF#32).getLsbD n = decide (n < 8) := by
  by_cases h : n < 32
  · exact (show ∀ m : Fin 32, (0xFF#32).getLsbD m.val = decide (m.val < 8) by decide) ⟨n, h⟩
  · rw [BitVec.getLsbD_of_ge _ _ (by omega)]; simp; omega

/-- The bits of a word with one byte replaced. -/
theorem getLsbD_withByte (w : Word) (j : Nat) (b : Byte) {m : Nat} (h : m < 32) :
    (withByte w j b).getLsbD m =
      if 8 * j ≤ m ∧ m < 8 * j + 8 then b.getLsbD (m - 8 * j) else w.getLsbD m := by
  simp only [withByte, BitVec.getLsbD_or, BitVec.getLsbD_and, BitVec.getLsbD_not, BitVec.getLsbD_shiftLeft,
    BitVec.getLsbD_setWidth, getLsbD_byteMask]
  by_cases h1 : m < 8 * j
  · have h0 : ¬(8 * j ≤ m) := by omega
    simp [h, h1, h0]
  · by_cases h2 : m < 8 * j + 8
    · have h3 : m - 8 * j < 8 := by omega
      have h4 : m - 8 * j < 32 := by omega
      simp [h, h1, h2, h3, h4, not_lt.mp h1]
    · have h3 : ¬m - 8 * j < 8 := by omega
      have h4 : b.getLsbD (m - 8 * j) = false := BitVec.getLsbD_of_ge _ _ (by omega)
      simp [h, h1, h2, h3, h4]

/-- The other bytes of a word with one byte replaced. -/
theorem byteOf_withByte_ne (w : Word) {i j : Nat} (b : Byte) (h : i ≠ j) : byteOf (withByte w j b) i = byteOf w i := by
  ext k hk
  simp only [byteOf, BitVec.getElem_extractLsb']
  by_cases hr : 8 * i + k < 32
  · rw [getLsbD_withByte w j b hr, if_neg (by omega)]
  · simp [BitVec.getLsbD_of_ge _ _ (not_lt.mp hr)]

/-- A word that has only the bits of a mask keeps its other bytes when one byte is replaced under the mask. -/
theorem byteOf_and_withByte_ne {w mask : Word} (hw : w &&& ~~~mask = 0#32) {i j : Nat} (b : Byte) (h : i ≠ j) :
    byteOf (withByte w j b &&& mask) i = byteOf w i := by
  ext k hk
  simp only [byteOf, BitVec.getElem_extractLsb', BitVec.getLsbD_and]
  by_cases hr : 8 * i + k < 32
  · rw [getLsbD_withByte w j b hr, if_neg (by omega)]
    have := congrArg (fun v : Word => v.getLsbD (8 * i + k)) hw
    simp [hr] at this
    cases hwb : w.getLsbD (8 * i + k) <;> simp [hwb] at this ⊢
    exact this
  · simp [BitVec.getLsbD_of_ge _ _ (not_lt.mp hr)]

/-! ### Mapped registers -/

/-- The address of a mapped byte. -/
def MappedByte.address : MappedByte → Nat
  | .tbrp => tbrpAddress
  | .ttbr i => ttbrAddress + i
  | .dcr => 0x78000
  | .dsr => 0x78002
  | .ibar0 i => 0x78004 + i
  | .ibar1 i => 0x78008 + i
  | .dbar i => 0x7800C + i
  | .dcr2 => 0x78010
  | .dsr2 => 0x78012
  | .ibar2 i => 0x78014 + i

/-- The mapped byte found at an address is the one with that address. -/
theorem mappedByte?_address {a : Nat} {k : MappedByte} (h : mappedByte? a = some k) : k.address = a := by
  unfold mappedByte? at h
  repeat' split at h
  all_goals first
    | (injection h with h; subst h; simp only [MappedByte.address]; omega)
    | exact absurd h (by simp)

/-- No two addresses hold the same mapped byte. -/
theorem mappedByte?_inj {a a' : Nat} {k : MappedByte} (h : mappedByte? a = some k) (h' : mappedByte? a' = some k) :
    a = a' :=
  (mappedByte?_address h).symm.trans (mappedByte?_address h')

/-- The bits of the mapped registers that the spec fixes. -/
structure MappedBits (s : State) : Prop where
  ttbr : s.ttbr &&& ~~~0x0FFFFC00#32 = 0#32
  ibar0 : s.ibar0 &&& ~~~0x0FFFFFFE#32 = 0#32
  ibar1 : s.ibar1 &&& ~~~0x0FFFFFFE#32 = 0#32
  ibar2 : s.ibar2 &&& ~~~0x0FFFFFFE#32 = 0#32
  dbar : s.dbar &&& ~~~0x0FFFFFFF#32 = 0#32
  dcr : s.dcr &&& 0x80#8 = 0#8
  dcr2 : s.dcr2 &&& 0xC0#8 = 0#8
  dsr2 : s.dsr2 &&& 0xFE#8 = 0#8

/-- The invariant fixes the bits of the mapped registers. -/
theorem State.Inv.mappedBits {s : State} (h : s.Inv) : MappedBits s :=
  ⟨h.ttbrBits, h.ibar0Bits, h.ibar1Bits, h.ibar2Bits, h.dbarBits, h.dcrBits, h.dcr2Bits, h.dsr2Bits⟩

/-- What is cut to a mask has no other bit. -/
theorem and_mask_and_not {n : Nat} (w mask : BitVec n) : (w &&& mask) &&& ~~~mask = 0#n := by
  ext k hk; simp

/-- A write of a mapped byte keeps the fixed bits. -/
theorem MappedBits.writeMapped {s : State} (h : MappedBits s) (k : MappedByte) (b : Byte) :
    MappedBits (s.writeMapped k b) := by
  have h8 : ∀ c d : Byte, d &&& 0x80#8 = 0#8 → ((c &&& 0x7E#8) ||| (d &&& 0x01#8)) &&& 0x80#8 = 0#8 := by
    intro c d _; ext i hi; interval_cases i <;> simp
  have h9 : ∀ c : Byte, (c &&& 0x3F#8) &&& 0xC0#8 = 0#8 := by intro c; ext i hi; interval_cases i <;> simp
  have h10 : ∀ c : Byte, (c &&& 0x01#8) &&& 0xFE#8 = 0#8 := by intro c; ext i hi; interval_cases i <;> simp
  cases k <;> constructor <;>
    simp only [State.writeMapped, State.writeTbrp, State.writeTtbrByte, State.writeDcr, State.writeDcr2, maskIbar, maskDbar,
      maskTtbr]
  all_goals first
    | exact h.ttbr | exact h.ibar0 | exact h.ibar1 | exact h.ibar2 | exact h.dbar | exact h.dcr | exact h.dcr2 | exact h.dsr2
    | exact and_mask_and_not _ _
    | exact h8 _ _ h.dcr | exact h9 _ | exact h10 _
    | (split; exact and_mask_and_not _ _; exact h.ttbr)

/-- The other mapped bytes read as before. -/
theorem MappedBits.readMapped_writeMapped_ne {s : State} (h : MappedBits s) {k k' : MappedByte} (b : Byte)
    (hne : k' ≠ k) : (s.writeMapped k b).readMapped k' = s.readMapped k' := by
  cases k with
  | tbrp => cases k' <;> rfl
  | ttbr j =>
    cases k' with
    | ttbr i =>
      simp only [State.writeMapped, State.writeTtbrByte, State.readMapped]
      split
      · exact byteOf_and_withByte_ne h.ttbr _ fun e => hne (e ▸ rfl)
      · rfl
    | _ => rfl
  | ibar0 j =>
    cases k' with
    | ibar0 i => exact byteOf_and_withByte_ne h.ibar0 _ fun e => hne (e ▸ rfl)
    | _ => rfl
  | ibar1 j =>
    cases k' with
    | ibar1 i => exact byteOf_and_withByte_ne h.ibar1 _ fun e => hne (e ▸ rfl)
    | _ => rfl
  | dbar j =>
    cases k' with
    | dbar i => exact byteOf_and_withByte_ne h.dbar _ fun e => hne (e ▸ rfl)
    | _ => rfl
  | ibar2 j =>
    cases k' with
    | ibar2 i => exact byteOf_and_withByte_ne h.ibar2 _ fun e => hne (e ▸ rfl)
    | _ => rfl
  | dcr =>
    cases k' with
    | dcr => exact absurd rfl hne
    | _ => rfl
  | dsr =>
    cases k' with
    | dsr => exact absurd rfl hne
    | _ => rfl
  | dcr2 =>
    cases k' with
    | dcr2 => exact absurd rfl hne
    | _ => rfl
  | dsr2 =>
    cases k' with
    | dsr2 => exact absurd rfl hne
    | _ => rfl

/-! ### One byte written -/

/-- A byte write keeps the fixed bits. -/
theorem MappedBits.writeByte {s : State} (h : MappedBits s) (a : Nat) (b : Byte) : MappedBits (s.writeByte a b) := by
  unfold State.writeByte
  split
  · exact h
  · split
    · exact h.writeMapped _ b
    · split
      · exact ⟨h.ttbr, h.ibar0, h.ibar1, h.ibar2, h.dbar, h.dcr, h.dcr2, h.dsr2⟩
      all_goals exact h

/-- Every other address reads as before a byte write. -/
theorem MappedBits.readByte_writeByte_ne {s : State} (h : MappedBits s) (access : Nat) {a a' : Nat} (b : Byte)
    (hne : a' ≠ a) : (s.writeByte a b).readByte access a' = s.readByte access a' := by
  unfold State.writeByte
  split
  · rfl
  · split
    · next k hk =>
      unfold State.readByte
      cases hk' : mappedByte? a' with
      | some k' => exact h.readMapped_writeMapped_ne b fun e => hne (mappedByte?_inj (e ▸ hk') hk)
      | none => simp
    · split <;> try rfl
      unfold State.readByte
      cases mappedByte? a' with
      | some k' => cases k' <;> rfl
      | none => simp [Memory.read_write, hne]

/-- No write changes the mode. -/
@[simp] theorem State.writeByte_userMode (s : State) (a : Nat) (b : Byte) : (s.writeByte a b).userMode = s.userMode := by
  unfold State.writeByte
  split
  · rfl
  · split
    · next k _ => cases k <;> simp [State.writeMapped, State.writeDcr, State.userMode] <;> rfl
    · split <;> rfl

/-- A byte written to plain memory reads back. -/
theorem State.readByte_writeByte_self {s : State} {a : Nat} (h : s.plainRam a) (access : Nat) (b : Byte) :
    (s.writeByte a b).readByte access a = b := by
  obtain ⟨hk, hm, hg⟩ := h
  simp [State.writeByte, State.readByte, hk, hm, hg, Memory.read_write]

/-- A byte written to plain memory changes no mapped register and no trace. -/
theorem State.writeByte_plain {s : State} {a : Nat} (h : s.plainRam a) (b : Byte) :
    s.writeByte a b = { s with mem := Memory.write s.mem a b } := by
  obtain ⟨hk, hm, hg⟩ := h
  simp [State.writeByte, hk, hm, hg]

/-- Being plain memory depends on the parameters and the mode alone. -/
theorem State.plainRam_congr {s t : State} (hc : t.cfg = s.cfg) (hu : t.userMode = s.userMode) (a : Nat) :
    t.plainRam a ↔ s.plainRam a := by
  simp [State.plainRam, hc, hu]

/-- Being a plain block depends on the parameters and the mode alone. -/
theorem State.plainBlock_congr {s t : State} (hc : t.cfg = s.cfg) (hu : t.userMode = s.userMode) (x : Word) (n : Nat) :
    t.plainBlock x n ↔ s.plainBlock x n := by
  simp [State.plainBlock, State.addresses_congr hc, State.plainRam_congr hc hu]

/-! ### Several bytes written -/

@[simp] theorem State.writeBytes_userMode (s : State) (x v : Word) (n : Nat) :
    (s.writeBytes x v n).userMode = s.userMode := by
  induction n with
  | zero => rfl
  | succ n ih => rw [State.writeBytes, State.writeByte_userMode, ih]

/-- A write of several bytes keeps the fixed bits. -/
theorem MappedBits.writeBytes {s : State} (h : MappedBits s) (x v : Word) (n : Nat) : MappedBits (s.writeBytes x v n) := by
  induction n with
  | zero => exact h
  | succ n ih => exact ih.writeByte _ _

/-- The first `n` addresses of a block. -/
theorem State.addresses_succ (s : State) (x : Word) (n : Nat) :
    s.addresses x (n + 1) = s.addresses x n ++ [s.byteAddress x n] := by
  simp [State.addresses, List.range_succ]

/-- Every address outside the block reads as before. -/
theorem MappedBits.readByte_writeBytes_ne {s : State} (h : MappedBits s) (access : Nat) {x v : Word} {n a : Nat}
    (hne : a ∉ s.addresses x n) : (s.writeBytes x v n).readByte access a = s.readByte access a := by
  induction n with
  | zero => rfl
  | succ n ih =>
    rw [State.addresses_succ, List.mem_append, List.mem_singleton, not_or] at hne
    rw [State.writeBytes, (h.writeBytes x v n).readByte_writeByte_ne access _ hne.2, ih hne.1]

/-- A shorter block of a plain block is plain. -/
theorem State.plainBlock_of_succ {s : State} {x : Word} {n : Nat} (h : s.plainBlock x (n + 1)) :
    s.plainBlock x n ∧ s.plainRam (s.byteAddress x n) ∧ s.byteAddress x n ∉ s.addresses x n := by
  obtain ⟨h1, h2⟩ := h
  rw [State.addresses_succ] at h1 h2
  have h3 := List.nodup_append.mp h1
  refine ⟨⟨h3.1, fun a ha => h2 a (List.mem_append_left _ ha)⟩, h2 _ (by simp), fun hm => ?_⟩
  exact h3.2.2 _ hm _ (List.mem_singleton_self _) rfl

/-- A write to a plain block changes memory alone. -/
theorem State.writeBytes_plain {s : State} {x : Word} {n : Nat} (h : s.plainBlock x n) (v : Word) :
    s.writeBytes x v n = { s with mem := (s.writeBytes x v n).mem } := by
  induction n with
  | zero => rfl
  | succ n ih =>
    obtain ⟨h1, h2, -⟩ := State.plainBlock_of_succ h
    have hp : (s.writeBytes x v n).plainRam (s.byteAddress x n) :=
      (State.plainRam_congr (by simp) (by simp) _).mpr h2
    rw [State.writeBytes, State.writeByte_plain hp, ih h1]

/-- A block reads back when the bytes written to plain memory are read. -/
theorem State.readByte_writeBytes {s : State} {x : Word} {n : Nat} (h : s.plainBlock x n) (access : Nat) (v : Word)
    {i : Nat} (hi : i < n) : (s.writeBytes x v n).readByte access (s.byteAddress x i) = byteOf v i := by
  induction n with
  | zero => omega
  | succ n ih =>
    obtain ⟨h1, h2, h3⟩ := State.plainBlock_of_succ h
    have hp : (s.writeBytes x v n).plainRam (s.byteAddress x n) :=
      (State.plainRam_congr (by simp) (by simp) _).mpr h2
    rw [State.writeBytes]
    by_cases he : i = n
    · subst he; exact State.readByte_writeByte_self hp access _
    · have hlt : i < n := by omega
      have hne : s.byteAddress x i ≠ s.byteAddress x n := fun e =>
        h3 (e ▸ List.mem_map.mpr ⟨i, List.mem_range.mpr hlt, rfl⟩)
      rw [State.writeByte_plain hp, ← ih h1 hlt]
      have hk := h1.2 _ (List.mem_map.mpr ⟨i, List.mem_range.mpr hlt, rfl⟩)
      simp [State.readByte, hk.1, hk.2.1, Memory.read_write, hne]

/-- A byte of a word as a number. -/
theorem byteOf_toNat (v : Word) (i : Nat) : (byteOf v i).toNat = v.toNat / 256 ^ i % 256 := by
  simp [byteOf, BitVec.extractLsb'_toNat, Nat.shiftRight_eq_div_pow, pow_mul]

/-- The number in a plain block just written is the low bytes of the word written. -/
theorem State.numberAt_writeBytes {s : State} {x : Word} {n : Nat} (h : s.plainBlock x n) (access : Nat) (v : Word) :
    (s.writeBytes x v n).numberAt access x n = v.toNat % 256 ^ n := by
  have key : ∀ m ≤ n, (s.writeBytes x v n).numberAt access x m = v.toNat % 256 ^ m := by
    intro m hm
    induction m with
    | zero => simp [State.numberAt, Nat.mod_one]
    | succ m ih =>
      have hc : (s.writeBytes x v n).byteAddress x m = s.byteAddress x m := State.byteAddress_congr (by simp) x m
      rw [State.numberAt, ih (by omega), hc, State.readByte_writeBytes h access v (by omega), byteOf_toNat, pow_succ,
        Nat.mod_mul]
      ring
  exact key n le_rfl

/-! ### The canonical form of memory -/

/-- A bus address lies inside the space. -/
theorem busAddress_lt (c : Config) (x : Word) : busAddress c x < 2 ^ 28 := by
  have h : x.toNat % 2 ^ min 28 c.addrBits < 2 ^ min 28 c.addrBits := Nat.mod_lt _ (by positivity)
  exact h.trans_le (Nat.pow_le_pow_right (by omega) (Nat.min_le_left _ _))

/-- A byte write inside the space keeps the canonical form. -/
theorem State.writeByte_wf {s : State} {a : Nat} (ha : a < 2 ^ 28) (h : s.mem.wf = true) (b : Byte) :
    (s.writeByte a b).mem.wf = true := by
  unfold State.writeByte
  split
  · exact h
  · split
    · rw [State.writeMapped_mem]; exact h
    · split
      · exact Memory.wf_write b ha h
      all_goals exact h

/-- A write of several bytes keeps the canonical form. -/
theorem State.writeBytes_wf {s : State} (h : s.mem.wf = true) (x v : Word) (n : Nat) :
    (s.writeBytes x v n).mem.wf = true := by
  induction n with
  | zero => exact h
  | succ n ih => exact State.writeByte_wf (busAddress_lt _ _) ih _

/-- A store keeps the canonical form. -/
theorem State.store_wf {s : State} (h : s.mem.wf = true) (size : Size) (x v : Word) : (s.store size x v).mem.wf = true :=
  State.writeBytes_wf (by simpa using h) _ _ _

/-- A push keeps the canonical form. -/
theorem State.push_wf {s : State} (h : s.mem.wf = true) (agent : Agent) (v : Word) : (s.push agent v).mem.wf = true := by
  unfold State.push
  cases agent
  · exact State.store_wf (s := { s with sp := s.sp - 4#32 }) h .word _ v
  · refine State.writeBytes_wf ?_ _ v 4
    rw [State.touch_mem]; exact h

/-- What the external bus master writes keeps the canonical form. -/
theorem State.masterWrites_wf {s : State} (h : s.mem.wf = true) (cells : List Host.Cell) :
    (s.masterWrites cells).mem.wf = true := by
  unfold State.masterWrites
  induction cells generalizing s with
  | nil => exact h
  | cons c rest ih =>
    refine ih ?_
    unfold State.masterWrite
    dsimp only
    split
    · exact Memory.wf_write _ (busAddress_lt _ _) h
    · exact h

/-- The reset state's memory is canonical. -/
theorem State.reset_wf : State.reset.mem.wf = true := rfl

/-- Placing an instruction where the next step fetches keeps the canonical form. -/
theorem State.withFetchWord_wf {s : State} (h : s.mem.wf = true) (nbits w : Nat) : (s.withFetchWord nbits w).mem.wf = true :=
  Memory.wf_write _ (busAddress_lt _ _) (Memory.wf_write _ (busAddress_lt _ _) h)

end Sys2Proof.Machine
end

