-- ==== Sys2Proof/Laws/Ops.lean ====
section
/-! SUPPORT. For each shared operation one lemma that says once what it does: stores, pushes, pops, trap entry, the debugging exception, loads, post-increments, branches. -/

namespace Sys2Proof.Machine

/-! ### Frames -/

/-- Nothing mapped differs from itself. -/
theorem MappedFrame.refl (s : State) : MappedFrame s s := ⟨rfl, rfl, rfl, rfl, rfl, rfl, rfl, rfl, rfl, rfl⟩

/-- Mapped frames compose. -/
theorem MappedFrame.trans {s t u : State} (h : MappedFrame s t) (h' : MappedFrame t u) : MappedFrame s u :=
  ⟨h'.ttbr.trans h.ttbr, h'.ttbrWe.trans h.ttbrWe, h'.dcr.trans h.dcr, h'.dcr2.trans h.dcr2, h'.dsr.trans h.dsr,
    h'.dsr2.trans h.dsr2, h'.ibar0.trans h.ibar0, h'.ibar1.trans h.ibar1, h'.ibar2.trans h.ibar2, h'.dbar.trans h.dbar⟩

/-- A mapped frame keeps the mode. -/
theorem MappedFrame.userMode {s t : State} (h : MappedFrame s t) : t.userMode = s.userMode := by
  simp [State.userMode, h.dcr]

/-- A mapped frame keeps the fixed bits. -/
theorem MappedFrame.mappedBits {s t : State} (h : MappedFrame s t) (hs : MappedBits s) : MappedBits t :=
  ⟨h.ttbr ▸ hs.ttbr, h.ibar0 ▸ hs.ibar0, h.ibar1 ▸ hs.ibar1, h.ibar2 ▸ hs.ibar2, h.dbar ▸ hs.dbar, h.dcr ▸ hs.dcr,
    h.dcr2 ▸ hs.dcr2, h.dsr2 ▸ hs.dsr2⟩

/-- The traces of a read are no mapped register. -/
theorem State.noteRead_mapped (s : State) (size : Size) (x : Word) : MappedFrame s (s.noteRead size x) := by
  constructor <;> simp

/-- The traces of a write are no mapped register. -/
theorem State.noteWrite_mapped (s : State) (size : Size) (x : Word) : MappedFrame s (s.noteWrite size x) := by
  constructor <;> simp

/-- The stop of U6 is no mapped register. -/
theorem State.touch_mapped (s : State) (size : Size) (x : Word) : MappedFrame s (s.touch size x) := by
  constructor <;> simp

/-- The traces of a read change no byte. -/
theorem State.noteRead_memory (s : State) (size : Size) (x : Word) : SameMemory s (s.noteRead size x) :=
  State.readByte_congr (s.noteRead_mapped size x) (by simp) (by simp) (by simp)

/-- The traces of a write change no byte. -/
theorem State.noteWrite_memory (s : State) (size : Size) (x : Word) : SameMemory s (s.noteWrite size x) :=
  State.readByte_congr (s.noteWrite_mapped size x) (by simp) (by simp) (by simp)

/-- The stop of U6 changes no byte. -/
theorem State.touch_memory (s : State) (size : Size) (x : Word) : SameMemory s (s.touch size x) :=
  State.readByte_congr (s.touch_mapped size x) (by simp) (by simp) (by simp)

/-- A pop changes no byte. -/
theorem State.pop_mapped (s : State) : MappedFrame s s.pop := by constructor <;> simp

/-- A pop changes no byte. -/
theorem State.pop_memory (s : State) : SameMemory s s.pop :=
  State.readByte_congr s.pop_mapped (by simp) (by simp) (by simp)

/-- The number at an address under equal memories. -/
theorem SameMemory.numberAt {s t : State} (h : SameMemory s t) (hc : t.cfg = s.cfg) (access : Nat) (x : Word) (n : Nat) :
    t.numberAt access x n = s.numberAt access x n :=
  State.numberAt_congr hc fun a _ => h access a

/-! ### Blocks -/

/-- A block in two parts. -/
theorem State.addresses_add (s : State) (x : Word) (m n : Nat) :
    s.addresses x (m + n) = s.addresses x m ++ s.addresses (x + BitVec.ofNat 32 m) n := by
  simp only [State.addresses, List.range_add, List.map_append, List.map_map]
  congr 1
  apply List.map_congr_left
  intro i _
  simp only [Function.comp_apply, State.byteAddress, BitVec.ofNat_add, BitVec.add_assoc]

/-- The parts of a plain block are plain and share no address. -/
theorem State.plainBlock_add {s : State} {x : Word} {m n : Nat} (h : s.plainBlock x (m + n)) :
    s.plainBlock x m ∧ s.plainBlock (x + BitVec.ofNat 32 m) n ∧
      ∀ a ∈ s.addresses x m, a ∉ s.addresses (x + BitVec.ofNat 32 m) n := by
  obtain ⟨h1, h2⟩ := h
  rw [State.addresses_add] at h1 h2
  have h3 := List.nodup_append.mp h1
  exact ⟨⟨h3.1, fun a ha => h2 a (List.mem_append_left _ ha)⟩, ⟨h3.2.1, fun a ha => h2 a (List.mem_append_right _ ha)⟩,
    fun a ha hb => h3.2.2 a ha a hb rfl⟩

/-! ### Stores and pushes -/

/-- Every address outside a plain block reads as before a write of the block. -/
theorem State.readByte_writeBytes_plain_ne {s : State} {x : Word} {n : Nat} (h : s.plainBlock x n) (access : Nat) (v : Word)
    {a : Nat} (hne : a ∉ s.addresses x n) : (s.writeBytes x v n).readByte access a = s.readByte access a := by
  induction n with
  | zero => rfl
  | succ n ih =>
    rw [State.addresses_succ, List.mem_append, List.mem_singleton, not_or] at hne
    obtain ⟨h1, h2, -⟩ := State.plainBlock_of_succ h
    have hp : (s.writeBytes x v n).plainRam (s.byteAddress x n) :=
      (State.plainRam_congr (by simp) (by simp) _).mpr h2
    rw [State.writeBytes, State.writeByte_plain hp, ← ih h1 hne.1]
    unfold State.readByte
    cases mappedByte? a with
    | some k => cases k <;> rfl
    | none => simp [Memory.read_write, hne.2]

/-- What a write of several bytes does to memory and the mapped registers. -/
structure Stored (s : State) (x v : Word) (n : Nat) (t : State) : Prop where
  /-- every other address reads as before, if the fixed bits are as they should be. -/
  others : MappedBits s → SameMemoryExcept (s.addresses x n) s t
  /-- in plain memory every other address reads as before in any case. -/
  plainOthers : s.plainBlock x n → SameMemoryExcept (s.addresses x n) s t
  /-- in plain memory the bytes read back. -/
  back : s.plainBlock x n → ∀ access, t.numberAt access x n = v.toNat % 256 ^ n
  /-- in plain memory no mapped register changes. -/
  mapped : s.plainBlock x n → MappedFrame s t
  /-- the fixed bits stay fixed. -/
  bits : MappedBits s → MappedBits t
  /-- the mode stays. -/
  mode : t.userMode = s.userMode
  /-- memory stays canonical. -/
  wf : s.mem.wf = true → t.mem.wf = true

/-- What `writeBytes` does. -/
theorem State.writeBytes_spec (s : State) (x v : Word) (n : Nat) : Stored s x v n (s.writeBytes x v n) where
  others h access _ hne := h.readByte_writeBytes_ne access hne
  plainOthers h access _ hne := State.readByte_writeBytes_plain_ne h access v hne
  back h access := State.numberAt_writeBytes h access v
  mapped h := by
    rw [State.writeBytes_plain h]
    exact ⟨rfl, rfl, rfl, rfl, rfl, rfl, rfl, rfl, rfl, rfl⟩
  bits h := h.writeBytes x v n
  mode := by simp
  wf h := State.writeBytes_wf h x v n

/-- A write after something that changes no byte. -/
theorem Stored.after {r s t : State} {x v : Word} {n : Nat} (hm : MappedFrame r s) (hmem : s.mem = r.mem)
    (hc : s.cfg = r.cfg) (hf : s.freeCount = r.freeCount) (h : Stored s x v n t) : Stored r x v n t where
  others hr access a hne := by
    rw [h.others (hm.mappedBits hr) access a (State.addresses_congr hc x n ▸ hne), State.readByte_congr hm hmem hc hf]
  plainOthers hr access a hne := by
    rw [h.plainOthers ((State.plainBlock_congr hc hm.userMode x n).mpr hr) access a (State.addresses_congr hc x n ▸ hne),
      State.readByte_congr hm hmem hc hf]
  back hr := h.back ((State.plainBlock_congr hc hm.userMode x n).mpr hr)
  mapped hr := hm.trans (h.mapped ((State.plainBlock_congr hc hm.userMode x n).mpr hr))
  bits hr := h.bits (hm.mappedBits hr)
  mode := h.mode.trans hm.userMode
  wf hr := h.wf (hmem ▸ hr)

/-- What a store does; the fields it leaves alone are those of `State.store_eq`. -/
theorem State.store_spec (s : State) (size : Size) (x v : Word) : Stored s x v size.bytes (s.store size x v) :=
  Stored.after (s.noteWrite_mapped size x) (by simp) (by simp) (by simp) (State.writeBytes_spec _ x v size.bytes)

/-- What a push does; the fields it leaves alone are those of `State.push_eq`. -/
theorem State.push_spec (s : State) (agent : Agent) (v : Word) : Stored s (s.sp - 4#32) v 4 (s.push agent v) := by
  have key : Stored { s with sp := s.sp - 4#32 } (s.sp - 4#32) v 4 (s.push agent v) := by
    unfold State.push
    cases agent
    · exact State.store_spec { s with sp := s.sp - 4#32 } .word (s.sp - 4#32) v
    · exact Stored.after (State.touch_mapped _ .word _) (by simp) (by simp) (by simp) (State.writeBytes_spec _ _ v 4)
  exact Stored.after (r := s) (s := { s with sp := s.sp - 4#32 }) ⟨rfl, rfl, rfl, rfl, rfl, rfl, rfl, rfl, rfl, rfl⟩
    rfl rfl rfl key

/-- The word on top of the stack. -/
theorem State.top_toNat (s : State) (access : Nat) : (s.top access).toNat = s.numberAt access s.sp 4 :=
  s.read32_toNat access s.sp

/-! ### Two words on a stack -/

/-- A word is the number in its four bytes. -/
theorem word_mod (w : Word) : w.toNat % 256 ^ 4 = w.toNat := Nat.mod_eq_of_lt w.isLt

/-- Two words written one below the other, the upper one first: both read back, every other address as before. -/
theorem Stored.two {s t u : State} {x v w : Word} (h1 : Stored s (x + 4#32) v 4 t) (h2 : Stored t x w 4 u)
    (hc : t.cfg = s.cfg) (h : s.plainBlock x 8) (hc' : u.cfg = s.cfg) :
    (∀ access, u.numberAt access x 4 = w.toNat) ∧ (∀ access, u.numberAt access (x + 4#32) 4 = v.toNat) ∧
      SameMemoryExcept (s.addresses x 8) s u ∧ MappedFrame s u := by
  obtain ⟨hl, hh, hd⟩ := State.plainBlock_add (m := 4) (n := 4) h
  have hh : s.plainBlock (x + 4#32) 4 := hh
  have hl' : t.plainBlock x 4 := (State.plainBlock_congr hc h1.mode x 4).mpr hl
  have hsplit : s.addresses x 8 = s.addresses x 4 ++ s.addresses (x + 4#32) 4 := State.addresses_add s x 4 4
  refine ⟨fun access => ?_, fun access => ?_, fun access a hne => ?_, (h1.mapped hh).trans (h2.mapped hl')⟩
  · rw [h2.back hl' access, word_mod w]
  · have : u.numberAt access (x + 4#32) 4 = t.numberAt access (x + 4#32) 4 := by
      refine State.numberAt_congr (hc'.trans hc.symm) fun a ha => h2.plainOthers hl' access a fun hb => ?_
      rw [State.addresses_congr hc] at ha hb
      exact hd a hb ha
    rw [this, h1.back hh access, word_mod v]
  · rw [hsplit, List.mem_append, not_or] at hne
    rw [h2.plainOthers hl' access a (by rw [State.addresses_congr hc]; exact hne.1), h1.plainOthers hh access a hne.2]

/-! ### Taking a trap -/

/-- The bits of a word with one bit replaced. -/
theorem getLsbD_withBit (p : Word) (i : Nat) (b : Bool) {k : Nat} (hk : k < 32) :
    (withBit p i b).getLsbD k = if k = i then b else p.getLsbD k := by
  have h1 : ∀ n, (1#32).getLsbD n = decide (n = 0) := by intro n; simp
  have h : (1#32 <<< i).getLsbD k = decide (k = i) := by
    rw [BitVec.getLsbD_shiftLeft, h1]
    by_cases hki : k = i
    · simp [hki]; omega
    · by_cases hlt : k < i
      · simp [hki, hlt]
      · have : k - i ≠ 0 := by omega
        simp [hki, hk, this]
  unfold withBit
  split
  · rw [BitVec.getLsbD_or, h]; by_cases hki : k = i <;> simp_all
  · rw [BitVec.getLsbD_and, BitVec.getLsbD_not, h]; by_cases hki : k = i <;> simp_all

/-- The bits of a word with IL replaced. -/
theorem getLsbD_withLevel (p : Word) (level : BitVec 4) {k : Nat} (hk : k < 32) :
    (withLevel p level).getLsbD k = if 8 ≤ k ∧ k < 12 then level.getLsbD (k - 8) else p.getLsbD k := by
  have hm : ∀ m : Fin 32, (0x00000F00#32).getLsbD m.val = decide (8 ≤ m.val ∧ m.val < 12) := by decide
  have hm := hm ⟨k, hk⟩
  simp only [withLevel, BitVec.getLsbD_or, BitVec.getLsbD_and, BitVec.getLsbD_not, BitVec.getLsbD_shiftLeft,
    BitVec.getLsbD_setWidth, hm]
  by_cases h1 : k < 8
  · have h0 : ¬8 ≤ k := by omega
    simp [h1, h0, hk]
  · by_cases h2 : k < 12
    · have h3 : k - 8 < 32 := by omega
      simp [h1, h2, hk, h3, not_lt.mp h1]
    · have h4 : level.getLsbD (k - 8) = false := BitVec.getLsbD_of_ge _ _ (by omega)
      simp [h1, h2, hk, h4]

/-- The PSR after a trap, bit by bit (60_exceptions.md R410). -/
theorem State.trapEntry_psr (s : State) (agent : Agent) (offset ret : Word) (level : Option (BitVec 4)) {k : Nat}
    (hk : k < 32) :
    (s.trapEntry agent offset ret level).psr.getLsbD k =
      if k = 4 then false else if 8 ≤ k ∧ k < 12 then (level.getD (levelOf s.psr)).getLsbD (k - 8)
        else s.psr.getLsbD k := by
  cases level with
  | none =>
    simp only [State.trapEntry, State.loadVector, State.touch_psr, State.push_psr, Option.getD_none, bitIE]
    rw [getLsbD_withBit _ _ _ hk]
    split
    · rfl
    · split
      · next h => simp [levelOf, h]; omega
      · rfl
  | some level =>
    simp only [State.trapEntry, State.loadVector, State.touch_psr, State.push_psr, Option.getD_some, bitIE]
    rw [getLsbD_withLevel _ _ hk, getLsbD_withBit _ _ _ hk]
    split
    · next h => rw [if_neg (by omega)]
    · rfl

/-- A word with bit 0 cleared, as a number. -/
theorem maskPc_toNat (v : Word) : (maskPc v).toNat = v.toNat / 2 * 2 := by
  have : maskPc v = (v >>> 1) <<< 1 := by
    ext k hk
    have hm : ∀ m : Fin 32, (0xFFFFFFFE#32).getLsbD m.val = decide (1 ≤ m.val) := by decide
    have hm := hm ⟨k, hk⟩
    rw [← BitVec.getLsbD_eq_getElem, ← BitVec.getLsbD_eq_getElem, maskPc, BitVec.getLsbD_and, hm]
    by_cases h : k < 1
    · have : k = 0 := by omega
      simp [this]
    · simp [h, hk, not_lt.mp h]
  rw [this, BitVec.toNat_shiftLeft, BitVec.toNat_ushiftRight, Nat.shiftLeft_eq, Nat.shiftRight_eq_div_pow]
  have := v.isLt
  omega

/-- The vector a trap loads into PC (60_exceptions.md R410). -/
theorem State.trapEntry_pc (s : State) (agent : Agent) (offset ret : Word) (level : Option (BitVec 4)) :
    (s.trapEntry agent offset ret level).pc =
      maskPc (((s.push agent ret).push agent s.psr).read32 1 (((s.push agent ret).push agent s.psr).ttbr + offset)) := by
  have key : ∀ (u : State) (p : Word),
      ({ u with psr := p }.loadVector 1 offset).pc = maskPc (u.read32 1 (u.ttbr + offset)) := fun _ _ => rfl
  exact key _ _

/-- A trap entry changes no byte beside its two pushes. -/
theorem State.trapEntry_mapped (s : State) (agent : Agent) (offset ret : Word) (level : Option (BitVec 4)) :
    MappedFrame ((s.push agent ret).push agent s.psr) (s.trapEntry agent offset ret level) := by
  have key : ∀ (u : State) (p : Word), MappedFrame u
      { ({ u with psr := p }.loadVector 1 offset) with ext := .none, run := .running } := fun u p => by
    constructor <;> simp [State.loadVector]
  exact key _ _

/-- A trap entry writes memory by its two pushes alone. -/
theorem State.trapEntry_mem (s : State) (agent : Agent) (offset ret : Word) (level : Option (BitVec 4)) :
    (s.trapEntry agent offset ret level).mem = ((s.push agent ret).push agent s.psr).mem := by
  have key : ∀ (u : State) (p : Word),
      State.mem { ({ u with psr := p }.loadVector 1 offset) with ext := .none, run := .running } = u.mem := fun u p => by
    simp [State.loadVector]
  exact key _ _

/-- What taking a trap does, whoever makes its accesses (60_exceptions.md R410). -/
theorem State.trapEntry_taken {s : State} {offset : Nat} (h : s.stackReady offset) (agent : Agent) (ret : Word)
    (level : Option (BitVec 4)) :
    TrapTaken s offset ret level (s.trapEntry agent (BitVec.ofNat 32 offset) ret level) := by
  obtain ⟨hb, hv⟩ := h
  have h8 : s.sp - 4#32 - 4#32 = s.sp - 8#32 := by rw [BitVec.sub_sub]; rfl
  have h4 : s.sp - 8#32 + 4#32 = s.sp - 4#32 := by bv_omega
  have h1 := s.push_spec agent ret
  have h2 := (s.push agent ret).push_spec agent s.psr
  rw [State.push_sp, h8] at h2
  rw [← h4] at h1
  obtain ⟨hpsr, hpc, hoth, hmap⟩ := h1.two h2 (by simp) hb (by simp)
  have hm2 := s.trapEntry_mapped agent (BitVec.ofNat 32 offset) ret level
  have hcfg : (s.trapEntry agent (BitVec.ofNat 32 offset) ret level).cfg = ((s.push agent ret).push agent s.psr).cfg := by
    simp
  have hmem := State.readByte_congr hm2 (s.trapEntry_mem agent _ ret level) hcfg (by simp)
  have hs := s.trapEntry_sp agent (BitVec.ofNat 32 offset) ret level
  have hpcv := s.trapEntry_pc agent (BitVec.ofNat 32 offset) ret level
  rw [hmap.ttbr] at hpcv
  have hpsrv : ∀ {k}, k < 32 → _ := fun {k} hk => s.trapEntry_psr agent (BitVec.ofNat 32 offset) ret level (k := k) hk
  have hfields := s.trapEntry_eq agent (BitVec.ofNat 32 offset) ret level
  have hregs := s.trapEntry_reg agent (BitVec.ofNat 32 offset) ret level
  generalize s.trapEntry agent (BitVec.ofNat 32 offset) ret level = t at *
  generalize (s.push agent ret).push agent s.psr = u at *
  exact {
    sp := hs
    savedPsr := fun access => by rw [hs, hmem.numberAt hcfg, hpsr]
    savedPc := fun access => by rw [hs, hmem.numberAt hcfg, hpc]
    ie := hpsrv (by omega)
    il := by
      ext k hk
      rw [BitVec.getElem_extractLsb', hpsrv (by omega), if_neg (by omega), if_pos (by omega), Nat.add_sub_cancel_left,
        ← BitVec.getLsbD_eq_getElem]
      rfl
    flags := fun i h4 hi => by
      by_cases h32 : i < 32
      · rw [hpsrv h32, if_neg h4, if_neg (by omega)]
      · simp [BitVec.getLsbD_of_ge _ _ (not_lt.mp h32)]
    pc := by
      rw [hpcv, maskPc_toNat, State.read32_toNat,
        State.numberAt_congr (s := s) (access := 1) (by rw [← hcfg, hfields]) fun a ha => hoth 1 a (hv a ha)]
    ext := by rw [hfields]
    run := by rw [hfields]
    regs := hregs
    alr := by rw [hfields]
    ahr := by rw [hfields]
    mapped := hmap.trans hm2
    memory := fun access a ha => by rw [hmem, hoth access a ha]
    nmiArmed := by rw [hfields]
    delay := by rw [hfields]
    retdShadow := by rw [hfields]
    busReleased := by rw [hfields]
    cfg := by rw [hfields] }

/-- An `int` and an address error record what `State.trapEntry` says; the latter makes no access of its own. -/
theorem State.addressError_taken {s : State} (h : s.stackReady 24) : TrapTaken s 24 s.pc none s.addressError :=
  State.trapEntry_taken h .hardware s.pc none

/-! ### The debugging exception -/

/-- The three mapped bytes that the debugging exception writes. -/
def debugStatusAddresses : List Nat := [0x78000, 0x78002, 0x78012]

/-- Every other address reads as before when the three status bytes change. -/
theorem State.readByte_status (s : State) (dcr dsr dsr2 : Byte) (access : Nat) {a : Nat} (h : a ∉ debugStatusAddresses) :
    State.readByte { s with dcr := dcr, dsr := dsr, dsr2 := dsr2 } access a = s.readByte access a := by
  unfold State.readByte
  cases hk : mappedByte? a with
  | none => rfl
  | some k =>
    have ha := mappedByte?_address hk
    cases k <;> first
      | rfl
      | (subst ha; exact absurd (by decide) h)

/-- Plain memory holds no status byte. -/
theorem State.plainRam_not_status {s : State} {a : Nat} (h : s.plainRam a) : a ∉ debugStatusAddresses := by
  intro hm
  simp only [debugStatusAddresses, List.mem_cons, List.not_mem_nil, or_false] at hm
  rcases hm with rfl | rfl | rfl <;> exact absurd h.2.1 (by decide)

/-- The two words and the vector of the debugging exception lie below the debug registers. -/
theorem debugBase_below (c : Config) (s : State) {i : Nat} (hi : i < 32) :
    s.byteAddress (Config.debugBase c) i ∉ debugStatusAddresses := by
  have h1 : s.byteAddress (Config.debugBase c) i ≤ (Config.debugBase c + BitVec.ofNat 32 i).toNat := Nat.mod_le _ _
  have h2 : (Config.debugBase c + BitVec.ofNat 32 i).toNat < 0x78000 := by
    unfold Config.debugBase
    split <;> simp [BitVec.toNat_add] <;> omega
  simp only [debugStatusAddresses, List.mem_cons, List.not_mem_nil, or_false]
  omega

/-- What the debugging exception does (60_exceptions.md R450, R451). -/
theorem State.debugEntry_taken {s : State} (h : s.debugReady) (ret : Word) (causes causes2 : Byte) :
    DebugTaken s ret causes causes2 (s.debugEntry ret causes causes2) := by
  obtain ⟨hb, hv⟩ := h
  have key : ∀ s0 : State, MappedFrame s s0 → s0.mem = s.mem → s0.cfg = s.cfg → s0.freeCount = s.freeCount →
      s0.regs = s.regs →
      ∃ u : State, u.cfg = s.cfg ∧ MappedFrame s u ∧
        (∀ access, u.numberAt access (Config.debugBase s.cfg + 8#32) 4 = ret.toNat) ∧
        (∀ access, u.numberAt access (Config.debugBase s.cfg + 12#32) 4 = (s.reg 0).toNat) ∧
        SameMemoryExcept (s.addresses (Config.debugBase s.cfg + 8#32) 8) s u ∧
        State.writeBytes (State.writeBytes s0 (Config.debugBase s.cfg + 8#32) ret 4) (Config.debugBase s.cfg + 12#32)
          (s.reg 0) 4 = u := by
    intro s0 hm hmem hc hf hr
    refine ⟨_, ?_, ?_, ?_, ?_, ?_, rfl⟩
    · simp [hc]
    all_goals
      have h12 : Config.debugBase s.cfg + 12#32 = Config.debugBase s.cfg + 8#32 + BitVec.ofNat 32 4 := by
        rw [BitVec.add_assoc]; rfl
      have hu1 : Stored s (Config.debugBase s.cfg + 8#32) ret 4
          (State.writeBytes s0 (Config.debugBase s.cfg + 8#32) ret 4) :=
        Stored.after hm hmem hc hf (State.writeBytes_spec s0 _ ret 4)
      have hu2 := State.writeBytes_spec (State.writeBytes s0 (Config.debugBase s.cfg + 8#32) ret 4)
        (Config.debugBase s.cfg + 12#32) (s.reg 0) 4
      obtain ⟨hl, hh, hd⟩ := State.plainBlock_add (m := 4) (n := 4) hb
      rw [← h12] at hh hd
      have hc1 : (State.writeBytes s0 (Config.debugBase s.cfg + 8#32) ret 4).cfg = s.cfg := by simp [hc]
      have hh' := (State.plainBlock_congr hc1 hu1.mode (Config.debugBase s.cfg + 12#32) 4).mpr hh
      have hc2 : (State.writeBytes (State.writeBytes s0 (Config.debugBase s.cfg + 8#32) ret 4)
        (Config.debugBase s.cfg + 12#32) (s.reg 0) 4).cfg = (State.writeBytes s0 (Config.debugBase s.cfg + 8#32) ret 4).cfg := by
        simp
      have hsplit : s.addresses (Config.debugBase s.cfg + 8#32) 8 =
          s.addresses (Config.debugBase s.cfg + 8#32) 4 ++ s.addresses (Config.debugBase s.cfg + 12#32) 4 := by
        rw [h12]; exact State.addresses_add s _ 4 4
    · exact (hu1.mapped hl).trans (hu2.mapped hh')
    · intro access
      rw [State.numberAt_congr hc2 fun a ha => hu2.plainOthers hh' access a fun hb' => ?_, hu1.back hl, word_mod]
      rw [State.addresses_congr hc1] at ha hb'
      exact hd a ha hb'
    · intro access
      rw [hu2.back hh', word_mod]
    · intro access a ha
      rw [hsplit, List.mem_append, not_or] at ha
      rw [hu2.plainOthers hh' access a (by rw [State.addresses_congr hc1]; exact ha.2), hu1.plainOthers hl access a ha.1]
  obtain ⟨u, hc, hm, h8, h12, hmem, hu⟩ := key (if s.debugCtl = .misset then { s with debugCtl := .tripped } else s)
    (by split <;> exact ⟨rfl, rfl, rfl, rfl, rfl, rfl, rfl, rfl, rfl, rfl⟩) (by split <;> rfl) (by split <;> rfl)
    (by split <;> rfl) (by split <;> rfl)
  have heq : s.debugEntry ret causes causes2 =
      let s3 : State := { u with dsr := u.dsr ||| causes, dsr2 := u.dsr2 ||| causes2, dcr := u.dcr ||| 0x01#8 }
      { s3 with pc := maskPc (s3.read32 1 (Config.debugBase s.cfg)), ext := .none } := by
    subst hu
    simp only [State.debugEntry]
  have hfields := s.debugEntry_eq ret causes causes2
  have hregs := s.debugEntry_reg ret causes causes2
  clear hu key
  generalize s.debugEntry ret causes causes2 = t at *
  have hread : ∀ access a, a ∉ debugStatusAddresses → t.readByte access a = u.readByte access a := fun access a ha => by
    rw [heq]; exact State.readByte_status u _ _ _ access ha
  have hct : t.cfg = u.cfg := by rw [heq]
  have hnum : ∀ access x n, (∀ a ∈ s.addresses x n, a ∉ debugStatusAddresses) → t.numberAt access x n = u.numberAt access x n :=
    fun access x n hx => State.numberAt_congr hct fun a ha => hread access a (hx a (by rwa [State.addresses_congr hc] at ha))
  have h12' : Config.debugBase s.cfg + 12#32 = Config.debugBase s.cfg + 8#32 + BitVec.ofNat 32 4 := by
    rw [BitVec.add_assoc]; rfl
  obtain ⟨hl, hh, -⟩ := State.plainBlock_add (m := 4) (n := 4) hb
  rw [← h12'] at hh
  exact {
    savedPc := fun access => by rw [hnum _ _ _ fun a ha => State.plainRam_not_status (hl.2 a ha), h8]
    savedR0 := fun access => by rw [hnum _ _ _ fun a ha => State.plainRam_not_status (hh.2 a ha), h12]
    dsr := by rw [heq]; exact congrArg (· ||| causes) hm.dsr
    dsr2 := by rw [heq]; exact congrArg (· ||| causes2) hm.dsr2
    dm := by rw [heq]; exact congrArg (· ||| 1#8) hm.dcr
    pc := by
      have hpc : t.pc = maskPc (t.read32 1 (Config.debugBase s.cfg)) := by rw [heq]; rfl
      have hvec : ∀ a ∈ s.addresses (Config.debugBase s.cfg) 4, a ∉ debugStatusAddresses := by
        intro a ha
        simp only [State.addresses, List.mem_map, List.mem_range] at ha
        obtain ⟨i, hi, rfl⟩ := ha
        exact debugBase_below _ _ (by omega)
      rw [hpc, maskPc_toNat, State.read32_toNat, hnum _ _ _ hvec,
        State.numberAt_congr (s := s) (access := 1) hc fun a ha => hmem 1 a (hv a ha)]
    ext := by rw [hfields]
    regs := hregs
    psr := by rw [hfields]
    sp := by rw [hfields]
    alr := by rw [hfields]
    ahr := by rw [hfields]
    ttbr := by rw [heq]; exact hm.ttbr
    ttbrWe := by rw [heq]; exact hm.ttbrWe
    dcr2 := by rw [heq]; exact hm.dcr2
    ibar0 := by rw [heq]; exact hm.ibar0
    ibar1 := by rw [heq]; exact hm.ibar1
    ibar2 := by rw [heq]; exact hm.ibar2
    dbar := by rw [heq]; exact hm.dbar
    zdiv := by rw [hfields]
    run := by rw [hfields]
    nmiArmed := by rw [hfields]
    nmiPending := by rw [hfields]
    delay := by rw [hfields]
    retdShadow := by rw [hfields]
    memory := fun access a ha => by
      rw [List.mem_append, not_or] at ha
      rw [hread access a ha.2, hmem access a ha.1]
    cfg := by rw [hfields] }

end Sys2Proof.Machine
end

