-- ==== Sys2Proof/Laws/Frames.lean ====
section
/-! SUPPORT. Operands in exact arithmetic, and the frames of the shared shapes of meanings. -/

namespace Sys2Proof.Machine

/-! ### Operands -/

/-- The alignment check. -/
theorem misaligned_iff (size : Size) (x : Word) : misaligned size x = true ↔ x.toNat % size.bytes ≠ 0 := by
  cases size
  · simp [misaligned, Size.bytes, Nat.mod_one]
  · simp only [misaligned, Size.bytes, BitVec.getLsbD, Nat.testBit, Nat.shiftRight_zero]
    simp [Nat.one_and_eq_mod_two]
  · simp only [misaligned, Size.bytes, BitVec.getLsbD, Nat.testBit_eq_decide_div_mod_eq]
    simp; omega

/-- An aligned address passes the check. -/
theorem misaligned_false {size : Size} {x : Word} (h : x.toNat % size.bytes = 0) : misaligned size x = false := by
  rw [Bool.eq_false_iff]; exact fun hm => (misaligned_iff size x).mp hm h

/-- Two fields side by side. -/
theorem toNat_append_field {m n : Nat} (hi : BitVec m) (lo : BitVec n) : (hi ++ lo).toNat = hi.toNat * 2 ^ n + lo.toNat := by
  rw [BitVec.toNat_append, ← Nat.shiftLeft_add_eq_or_of_lt lo.isLt, Nat.shiftLeft_eq]

/-- The immediate of `ext` alone. -/
theorem extImmediate_eq (e : Ext) :
    extImmediate e = if e = .none then none else some (BitVec.ofNat 32 (e.joined 0 0)) := by
  cases e with
  | none => rfl
  | one e1 =>
    simp only [extImmediate, reduceCtorEq, if_false, Option.some.injEq]
    apply BitVec.eq_of_toNat_eq
    simp [Ext.joined]
  | two e1 e2 =>
    simp only [extImmediate, reduceCtorEq, if_false, Option.some.injEq]
    apply BitVec.eq_of_toNat_eq
    rw [BitVec.toNat_setWidth, BitVec.toNat_ofNat, toNat_append_field]
    simp [Ext.joined]

/-- An immediate extended with zeros. -/
theorem immOperand_eq (e : Ext) (imm6 : BitVec 6) : immOperand e imm6 = BitVec.ofNat 32 (e.joined 6 imm6.toNat) := by
  apply BitVec.eq_of_toNat_eq
  cases e with
  | none => simp [immOperand, Ext.joined]
  | one e1 =>
    simp only [immOperand, Ext.joined]
    rw [BitVec.toNat_setWidth, BitVec.toNat_ofNat, toNat_append_field]
  | two e1 e2 =>
    simp only [immOperand, Ext.joined]
    rw [BitVec.toNat_ofNat, toNat_append_field, toNat_append_field]
    have := e1.isLt; have := e2.isLt; have := imm6.isLt
    omega

/-- A number of `n` bits extended with its sign. -/
theorem signExtend_eq_ofInt {n : Nat} (v : BitVec n) (m : Nat) :
    v.signExtend m = BitVec.ofInt m ((v.toNat : Int).bmod (2 ^ n)) := by
  rw [BitVec.signExtend, BitVec.toInt_eq_toNat_bmod]

/-- An immediate extended with its sign. -/
theorem signOperand_eq (e : Ext) (sign6 : BitVec 6) : signOperand e sign6 = BitVec.ofInt 32 (e.signed6 sign6) := by
  cases e with
  | none => exact signExtend_eq_ofInt sign6 32
  | one e1 =>
    have h := signExtend_eq_ofInt (e1 ++ sign6) 32
    rw [toNat_append_field] at h
    exact h
  | two e1 e2 =>
    have h := signExtend_eq_ofInt (e1 ++ e2 ++ sign6) 32
    rw [toNat_append_field, toNat_append_field, BitVec.signExtend_eq] at h
    exact h

/-- The displacement of a PC-relative branch. -/
theorem branchDisplacement_eq (e : Ext) (sign8 : BitVec 8) :
    branchDisplacement e sign8 = BitVec.ofInt 32 (e.displacement sign8) := by
  cases e with
  | none =>
    have h := signExtend_eq_ofInt (sign8 ++ 0#1) 32
    rw [toNat_append_field, show sign8.toNat * 2 ^ 1 + (0#1).toNat = 2 * sign8.toNat by simp; omega] at h
    exact h
  | one e1 =>
    have h := signExtend_eq_ofInt (e1 ++ sign8 ++ 0#1) 32
    rw [toNat_append_field, toNat_append_field,
      show (e1.toNat * 2 ^ 8 + sign8.toNat) * 2 ^ 1 + (0#1).toNat = e1.toNat * 2 ^ 9 + 2 * sign8.toNat by simp; omega] at h
    exact h
  | two e1 e2 =>
    have h := signExtend_eq_ofInt (e1.extractLsb' 3 10 ++ e2 ++ sign8 ++ 0#1) 32
    have h3 : (e1.extractLsb' 3 10).toNat = e1.toNat / 8 := by
      rw [BitVec.extractLsb'_toNat, Nat.shiftRight_eq_div_pow]
      have := e1.isLt; omega
    rw [toNat_append_field, toNat_append_field, toNat_append_field, BitVec.signExtend_eq, h3,
      show ((e1.toNat / 8 * 2 ^ 13 + e2.toNat) * 2 ^ 8 + sign8.toNat) * 2 ^ 1 + (0#1).toNat =
        (e1.toNat / 8 * 2 ^ 13 + e2.toNat) * 2 ^ 9 + 2 * sign8.toNat by simp; omega] at h
    exact h

/-- The address of the `[%sp+imm6]` forms. -/
theorem State.spAddress_eq (s : State) (size : Size) (imm6 : BitVec 6) :
    s.spAddress size imm6 = s.stackAddress size imm6 := by
  have hl : (spLow6 size imm6).toNat = imm6.toNat / size.bytes * size.bytes := by
    cases size <;> revert imm6 <;> decide
  rw [State.spAddress, State.stackAddress]
  congr 1
  have := imm6.isLt
  apply BitVec.eq_of_toNat_eq
  cases h : s.ext with
  | none => simp [spDisplacement]
  | one e1 =>
    simp only [spDisplacement, reduceCtorEq, if_false, Ext.joined]
    rw [BitVec.toNat_setWidth, BitVec.toNat_ofNat, toNat_append_field, hl]
    congr 1
    cases size <;> simp only [Size.bytes] <;> omega
  | two e1 e2 =>
    simp only [spDisplacement, reduceCtorEq, if_false, Ext.joined]
    rw [BitVec.toNat_ofNat, toNat_append_field, toNat_append_field, hl]
    have := e1.isLt; have := e2.isLt
    cases size <;> simp only [Size.bytes] <;> omega

/-- The address of the `[%rb]` forms. -/
theorem State.indirect_eq (s : State) (rb : Reg) : s.indirect rb = s.baseAddress rb := by
  simp only [State.indirect, indirectAddress, State.baseAddress, extImmediate_eq]
  split <;> simp_all

/-- The two operands of `op %rd,%rs`. -/
theorem registerOperands_eq (s : State) (rd rs : Reg) :
    registerOperands s.ext (s.reg rd) (s.reg rs) = (s.leftOperand rd rs, s.rightOperand rs) := by
  simp only [registerOperands, State.leftOperand, State.rightOperand, extImmediate_eq]
  split <;> simp_all

/-! ### Frames -/

/-- Writing one register and going to the next address. -/
theorem advanced_setReg (s : State) (r : Reg) (v : Word) : Advanced s (s.setReg r v).advance := ⟨rfl, rfl, rfl⟩

/-- Writing one register makes no data access and changes nothing else. -/
theorem quietFrame_setReg (s : State) (r : Reg) (v : Word) : QuietFrame [r] [] [] s (s.setReg r v).advance where
  core := by
    constructor <;> simp
    intro q h; exact State.reg_setReg_ne s v h
  mapped := by constructor <;> rfl
  memory := State.readByte_congr (by constructor <;> rfl) rfl rfl rfl
  accesses := ⟨rfl, rfl, rfl⟩

/-- A store by an instruction changes nothing of the core. -/
theorem coreFrame_store (s : State) (size : Size) (x v : Word) : CoreFrame [] [] [] s (s.store size x v).advance := by
  constructor <;> simp

/-- A store with a post-increment writes one register. -/
theorem coreFrame_storePost (s : State) (size : Size) (x v y : Word) (rb : Reg) :
    CoreFrame [rb] [] [] s ((s.store size x v).setReg rb y).advance := by
  constructor <;> simp
  intro r h
  rw [State.reg_setReg_ne _ _ h]; simp

/-- What a write did is still so after something that changes no byte. -/
theorem Stored.trans_same {s t u : State} {x v : Word} {n : Nat} (h : Stored s x v n t) (hm : MappedFrame t u)
    (hmem : SameMemory t u) (hc : u.cfg = t.cfg) (hw : u.mem = t.mem) : Stored s x v n u where
  others a k b c := by rw [hmem, h.others a k b c]
  plainOthers a k b c := by rw [hmem, h.plainOthers a k b c]
  back a k := by rw [hmem.numberAt hc, h.back a k]
  mapped a := (h.mapped a).trans hm
  bits a := hm.mappedBits (h.bits a)
  mode := hm.userMode.trans h.mode
  wf a := hw ▸ h.wf a

end Sys2Proof.Machine
end

