-- ==== Sys2Proof/Laws/DataBreak.lean ====
section
/-! SUPPORT. What the data accesses of an instruction leave in the data break, and what the return from a debugging exception does. -/

namespace Sys2Proof.Machine

/-! ### Which accesses match -/

/-- The states agree on everything that decides whether an access matches the data break. -/
structure SameBreak (s t : State) : Prop where
  mode : t.userMode = s.userMode
  dcr : s.userMode = true → t.dcr = s.dcr
  dbar : s.userMode = true → t.dbar = s.dbar
  cfg : t.cfg = s.cfg

theorem SameBreak.refl (s : State) : SameBreak s s := ⟨rfl, fun _ => rfl, fun _ => rfl, rfl⟩

theorem SameBreak.trans {s t u : State} (h : SameBreak s t) (h' : SameBreak t u) : SameBreak s u where
  mode := h'.mode.trans h.mode
  dcr hu := (h'.dcr (h.mode.trans hu)).trans (h.dcr hu)
  dbar hu := (h'.dbar (h.mode.trans hu)).trans (h.dbar hu)
  cfg := h'.cfg.trans h.cfg

/-- What leaves the mapped registers alone leaves the matches alone. -/
theorem MappedFrame.sameBreak {s t : State} (h : MappedFrame s t) (hc : t.cfg = s.cfg) : SameBreak s t :=
  ⟨h.userMode, fun _ => h.dcr, fun _ => h.dbar, hc⟩

theorem SameBreak.access {s t : State} (h : SameBreak s t) (enable : Nat) (x : Word) :
    t.breakAccess enable x ↔ s.breakAccess enable x := by
  unfold State.breakAccess
  rw [h.mode, State.byteAddress_congr h.cfg]
  constructor
  · rintro ⟨hu, h4, he, ha⟩
    rw [h.dcr hu] at h4 he; rw [h.dbar hu] at ha
    exact ⟨hu, h4, he, ha⟩
  · rintro ⟨hu, h4, he, ha⟩
    rw [h.dcr hu, h.dbar hu]
    exact ⟨hu, h4, he, ha⟩

/-- A mapped byte is TBRP, a byte of TTBR, or lies among the debug registers. -/
theorem mappedByte?_window {a : Nat} {k : MappedByte} (h : mappedByte? a = some k) :
    k = .tbrp ∨ (∃ i < 4, k = .ttbr i ∧ a = ttbrAddress + i) ∨ debugRegistersFirst ≤ a ∧ a ≤ debugRegistersLast := by
  unfold mappedByte? at h
  simp only [debugRegistersFirst, debugRegistersLast]
  repeat' split at h
  all_goals first
    | cases h; done
    | (injection h with h; subst h; first
        | exact .inl rfl
        | exact .inr (.inl ⟨_, by omega, rfl, by omega⟩)
        | (right; right; omega))

/-- In user mode a byte write reaches no debug register. -/
theorem State.writeByte_user {s : State} (hu : s.userMode = true) (a : Nat) (b : Byte) :
    (s.writeByte a b).dcr = s.dcr ∧ (s.writeByte a b).dbar = s.dbar := by
  unfold State.writeByte
  split
  · exact ⟨rfl, rfl⟩
  · next hg =>
    split
    · next k hk =>
      obtain rfl | ⟨i, -, rfl, -⟩ | ⟨h1, h2⟩ := mappedByte?_window hk
      · exact ⟨rfl, rfl⟩
      · exact ⟨rfl, rfl⟩
      · refine absurd ⟨h1, ?_, hu⟩ hg
        simp only [debugRegistersLast, debugWindowLast] at h2 ⊢
        omega
    · split <;> exact ⟨rfl, rfl⟩

theorem State.writeBytes_sameBreak (s : State) (x v : Word) (n : Nat) : SameBreak s (s.writeBytes x v n) := by
  induction n with
  | zero => exact SameBreak.refl s
  | succ n ih =>
    refine ih.trans ?_
    rw [State.writeBytes]
    exact ⟨by simp, fun hu => (State.writeByte_user hu _ _).1, fun hu => (State.writeByte_user hu _ _).2, by simp⟩

theorem State.noteRead_sameBreak (s : State) (size : Size) (x : Word) : SameBreak s (s.noteRead size x) :=
  (s.noteRead_mapped size x).sameBreak (by simp)

theorem State.store_sameBreak (s : State) (size : Size) (x v : Word) : SameBreak s (s.store size x v) :=
  ((s.noteWrite_mapped size x).sameBreak (by simp)).trans (State.writeBytes_sameBreak _ x v _)

theorem State.push_sameBreak (s : State) (agent : Agent) (v : Word) : SameBreak s (s.push agent v) := by
  have h0 : SameBreak s { s with sp := s.sp - 4#32 } := ⟨rfl, fun _ => rfl, fun _ => rfl, rfl⟩
  refine h0.trans ?_
  unfold State.push
  cases agent
  · exact State.store_sameBreak { s with sp := s.sp - 4#32 } .word _ v
  · exact ((State.touch_mapped _ .word _).sameBreak (by simp)).trans (State.writeBytes_sameBreak _ _ v 4)

theorem State.pop_sameBreak (s : State) : SameBreak s s.pop := s.pop_mapped.sameBreak (by simp)

/-! ### What is recorded -/

theorem BreakRecorded.refl (s : State) : BreakRecorded s [] [] s :=
  ⟨fun _ _ => rfl, fun h => by simp at h⟩

/-- Nothing else looks at the latch. -/
theorem BreakRecorded.congr {s t u : State} {reads writes : List Word} (h : BreakRecorded s reads writes t)
    (hd : u.dbrk = t.dbrk) : BreakRecorded s reads writes u :=
  ⟨fun h1 h2 => hd.trans (h.quiet h1 h2), fun h1 => by rw [hd]; exact h.armed h1⟩

/-- The accesses that begin after something that leaves the latch alone. -/
theorem BreakRecorded.after {s s' t : State} {reads writes : List Word} (same : SameBreak s s')
    (hd : s'.dbrk = s.dbrk) (h : BreakRecorded s' reads writes t) : BreakRecorded s reads writes t := by
  refine ⟨fun h1 h2 => ?_, fun h1 => ?_⟩
  · rw [← hd]
    exact h.quiet (fun x hx => mt (same.access 5 x).mp (h1 x hx)) (fun x hx => mt (same.access 6 x).mp (h2 x hx))
  · have := h.armed (by simpa only [same.access] using h1)
    simpa only [same.access, hd] using this

/-- Two updates of one kind of the latch make one. -/
theorem kind_trans {R R' O : Prop} {b c : Prop} (hb : b ↔ R ∨ O) (hc : c ↔ R' ∨ b) : c ↔ (R ∨ R') ∨ O := by
  rw [hc, hb, or_left_comm, or_assoc]

/-- Accesses one after the other. -/
theorem BreakRecorded.trans {s t u : State} {r w r' w' : List Word} (h : BreakRecorded s r w t) (same : SameBreak s t)
    (h' : BreakRecorded t r' w' u) : BreakRecorded s (r ++ r') (w ++ w') u := by
  have hq := h.quiet; have ha := h.armed; have hq' := h'.quiet; have ha' := h'.armed
  simp only [same.access] at hq' ha'
  constructor
  · intro h1 h2
    rw [hq' (fun x hx => h1 x (by simp [hx])) (fun x hx => h2 x (by simp [hx])),
      hq (fun x hx => h1 x (by simp [hx])) (fun x hx => h2 x (by simp [hx]))]
  · simp only [List.mem_append, or_and_right, exists_or]
    generalize hR : (∃ x ∈ r, s.breakAccess 5 x) = R at *
    generalize hW : (∃ x ∈ w, s.breakAccess 6 x) = W at *
    generalize hR' : (∃ x ∈ r', s.breakAccess 5 x) = R' at *
    generalize hW' : (∃ x ∈ w', s.breakAccess 6 x) = W' at *
    have qA : ¬R → ¬W → t.dbrk = s.dbrk := fun n1 n2 =>
      hq (fun x hx hm => n1 (hR ▸ ⟨x, hx, hm⟩)) (fun x hx hm => n2 (hW ▸ ⟨x, hx, hm⟩))
    have qB : ¬R' → ¬W' → u.dbrk = t.dbrk := fun n1 n2 =>
      hq' (fun x hx hm => n1 (hR' ▸ ⟨x, hx, hm⟩)) (fun x hx hm => n2 (hW' ▸ ⟨x, hx, hm⟩))
    clear hq hq'
    intro h1
    by_cases hB : R' ∨ W'
    · obtain ⟨c, hc, hcr, hcw, hct⟩ := ha' hB
      by_cases hA : R ∨ W
      · obtain ⟨b, hb, hbr, hbw, hbt⟩ := ha hA
        simp only [hb, Option.some.injEq, exists_eq_left'] at hcr hcw hct
        exact ⟨c, hc, kind_trans hbr hcr, kind_trans hbw hcw, hct.trans hbt⟩
      · rw [not_or] at hA
        rw [qA hA.1 hA.2] at hcr hcw hct
        exact ⟨c, hc, by simpa [hA.1] using hcr, by simpa [hA.2] using hcw, hct⟩
    · rw [not_or] at hB
      have hA : R ∨ W := by simpa [hB.1, hB.2] using h1
      obtain ⟨b, hb, hbr, hbw, hbt⟩ := ha hA
      exact ⟨b, (qB hB.1 hB.2).trans hb, by simpa [hB.1] using hbr, by simpa [hB.2] using hbw, hbt⟩

/-- The check of one access. -/
theorem State.dataBreakMatches_iff (s : State) (write : Bool) (x : Word) :
    s.dataBreakMatches write x = true ↔ s.breakAccess (if write then 6 else 5) x := by
  simp [State.dataBreakMatches, State.breakAccess, and_assoc]

/-- What recording one access does. -/
theorem State.armDataBreak_recorded (s : State) (write : Bool) (x : Word) :
    BreakRecorded s (if write then [] else [x]) (if write then [x] else []) (s.armDataBreak write x) := by
  have hm := s.dataBreakMatches_iff write x
  unfold State.armDataBreak
  cases write <;> simp only [Bool.false_eq_true, if_false, if_true] at hm ⊢ <;> constructor <;>
    simp only [List.mem_singleton, List.not_mem_nil, forall_eq, exists_eq_left, false_and, exists_false, or_false,
      false_or, forall_const] <;> intro h
  · rw [if_neg (mt hm.mp h)]
  · rw [if_pos (hm.mpr h)]
    cases hd : s.dbrk <;> simp [h]
  · rw [if_neg (mt hm.mp h)]
  · rw [if_pos (hm.mpr h)]
    cases hd : s.dbrk <;> simp [h]

/-- The trace of one data read. -/
theorem State.noteRead_recorded (s : State) (size : Size) (x : Word) : BreakRecorded s [x] [] (s.noteRead size x) :=
  BreakRecorded.after ((s.touch_mapped size x).sameBreak (by simp)) (by simp) ((s.touch size x).armDataBreak_recorded false x)

/-- The trace of one data write. -/
theorem State.store_recorded (s : State) (size : Size) (x v : Word) : BreakRecorded s [] [x] (s.store size x v) := by
  have h := BreakRecorded.after ((s.touch_mapped size x).sameBreak (by simp)) (by simp)
    ((s.touch size x).armDataBreak_recorded true x)
  exact h.congr (by simp [State.store, State.noteWrite])

/-- A push by an instruction is one write. -/
theorem State.push_recorded (s : State) (v : Word) : BreakRecorded s [] [s.sp - 4#32] (s.push .instruction v) :=
  BreakRecorded.after (s' := { s with sp := s.sp - 4#32 }) ⟨rfl, fun _ => rfl, fun _ => rfl, rfl⟩ rfl
    (State.store_recorded { s with sp := s.sp - 4#32 } .word (s.sp - 4#32) v)

/-- A pop is one read. -/
theorem State.pop_recorded (s : State) : BreakRecorded s [s.sp] [] s.pop :=
  (s.noteRead_recorded .word s.sp).congr (by simp [State.pop])

/-- The address error exception makes no access that is compared. -/
theorem State.addressError_dbrk (s : State) : s.addressError.dbrk = s.dbrk := by
  simp [State.addressError]

/-- What `retd` reads is compared; everything else it does is in its definition. -/
theorem State.debugReturn_recorded (s : State) :
    BreakRecorded s [Config.debugBase s.cfg + 12#32, Config.debugBase s.cfg + 8#32] [] s.debugReturn :=
  ((s.noteRead_recorded .word _).trans (s.noteRead_sameBreak .word _)
    (State.noteRead_recorded _ .word (Config.debugBase s.cfg + 8#32))).congr rfl

/-- An access to a word at the debug base is no access to a debug register, so it trips nothing. -/
theorem State.touch_debugBase (s : State) {j : Nat} (hj : j + 4 ≤ 32) :
    s.touch .word (Config.debugBase s.cfg + BitVec.ofNat 32 j) = s := by
  unfold State.touch
  rw [if_neg]
  rintro ⟨-, h⟩
  rw [List.any_eq_true] at h
  obtain ⟨a, ha, h⟩ := h
  simp only [State.accessAddresses, List.mem_map, List.mem_range] at ha
  obtain ⟨i, hi, rfl⟩ := ha
  rw [Bool.and_eq_true] at h
  have h0 : i < 4 := hi
  have h1 : s.byteAddress (Config.debugBase s.cfg + BitVec.ofNat 32 j) i ≤
      (Config.debugBase s.cfg + BitVec.ofNat 32 j + BitVec.ofNat 32 i).toNat := Nat.mod_le _ _
  have h2 : (Config.debugBase s.cfg + BitVec.ofNat 32 j + BitVec.ofNat 32 i).toNat < 0x78000 := by
    unfold Config.debugBase
    split <;> simp [BitVec.toNat_add] <;> omega
  have h3 : 0x78000 ≤ s.byteAddress (Config.debugBase s.cfg + BitVec.ofNat 32 j) i := of_decide_eq_true h.1
  omega

/-- A read of such a word leaves a trace in the data break alone. -/
theorem State.noteRead_debugBase (s : State) {j : Nat} (hj : j + 4 ≤ 32) :
    s.noteRead .word (Config.debugBase s.cfg + BitVec.ofNat 32 j) =
      { s with dbrk := (s.noteRead .word (Config.debugBase s.cfg + BitVec.ofNat 32 j)).dbrk } := by
  unfold State.noteRead
  rw [s.touch_debugBase hj]
  unfold State.armDataBreak
  split <;> rfl

/-! ### The shared shapes of meanings -/

/-- A load reads its address once, and not at all if it is misaligned. -/
theorem State.loadTo_recorded (s : State) (rd : Reg) (size : Size) (signed : Bool) (x : Word) :
    (x.toNat % size.bytes = 0 → BreakRecorded s [x] [] (s.loadTo rd size signed x)) ∧
      (x.toNat % size.bytes ≠ 0 → (s.loadTo rd size signed x).dbrk = s.dbrk) := by
  unfold State.loadTo
  refine ⟨fun h => ?_, fun h => ?_⟩
  · rw [misaligned_false h]; exact (s.noteRead_recorded size x).congr rfl
  · rw [(misaligned_iff size x).mpr h]; exact s.addressError_dbrk

theorem State.loadPost_recorded (s : State) (rd rb : Reg) (size : Size) (signed : Bool) :
    ((s.reg rb).toNat % size.bytes = 0 → BreakRecorded s [s.reg rb] [] (s.loadPost rd rb size signed)) ∧
      ((s.reg rb).toNat % size.bytes ≠ 0 → (s.loadPost rd rb size signed).dbrk = s.dbrk) := by
  unfold State.loadPost
  dsimp only
  refine ⟨fun h => ?_, fun h => ?_⟩
  · rw [misaligned_false h]; exact (s.noteRead_recorded size _).congr rfl
  · rw [(misaligned_iff size _).mpr h]; exact s.addressError_dbrk

/-- A store writes its address once, and not at all if it is misaligned. -/
theorem State.storeFrom_recorded (s : State) (rs : Reg) (size : Size) (x : Word) :
    (x.toNat % size.bytes = 0 → BreakRecorded s [] [x] (s.storeFrom rs size x)) ∧
      (x.toNat % size.bytes ≠ 0 → (s.storeFrom rs size x).dbrk = s.dbrk) := by
  unfold State.storeFrom
  refine ⟨fun h => ?_, fun h => ?_⟩
  · rw [misaligned_false h]; exact (s.store_recorded size x _).congr rfl
  · rw [(misaligned_iff size x).mpr h]; exact s.addressError_dbrk

theorem State.storePost_recorded (s : State) (rb rs : Reg) (size : Size) :
    ((s.reg rb).toNat % size.bytes = 0 → BreakRecorded s [] [s.reg rb] (s.storePost rb rs size)) ∧
      ((s.reg rb).toNat % size.bytes ≠ 0 → (s.storePost rb rs size).dbrk = s.dbrk) := by
  unfold State.storePost
  dsimp only
  refine ⟨fun h => ?_, fun h => ?_⟩
  · rw [misaligned_false h]; exact (s.store_recorded size _ _).congr rfl
  · rw [(misaligned_iff size _).mpr h]; exact s.addressError_dbrk

/-- `bclr`, `bset` and `bnot` read and write their byte. -/
theorem State.rewriteByte_recorded (s : State) (x : Word) (f : Byte → Byte) :
    BreakRecorded s [x] [x] (s.rewriteByte x f) :=
  ((s.noteRead_recorded .byte x).trans (s.noteRead_sameBreak .byte x) (State.store_recorded _ .byte x _)).congr rfl

/-- The calls write their return address. -/
theorem State.callTo_recorded (s : State) (delayed : Bool) (t : Word) :
    BreakRecorded s [] [s.sp - 4#32] (s.callTo delayed t) :=
  (s.push_recorded (s.pc + if delayed then 4#32 else 2#32)).congr (by cases delayed <;> rfl)

/-- `ret` and `ret.d` read theirs. -/
theorem State.returnBy_recorded (s : State) (delayed : Bool) : BreakRecorded s [s.sp] [] (s.returnBy delayed) :=
  s.pop_recorded.congr (by cases delayed <;> rfl)

/-- `reti` reads the two words of the frame. -/
theorem State.trapReturn_recorded (s : State) : BreakRecorded s [s.sp, s.sp + 4#32] [] s.trapReturn := by
  have h1 : BreakRecorded s [s.sp] [] { s.pop with psr := s.top 1 &&& psrMask } := s.pop_recorded.congr rfl
  have b1 : SameBreak s { s.pop with psr := s.top 1 &&& psrMask } := s.pop_sameBreak.trans ⟨rfl, fun _ => rfl, fun _ => rfl, rfl⟩
  have h := h1.trans b1 (State.pop_recorded _)
  rw [State.pop_sp] at h
  exact h.congr rfl

/-- `int` writes the two words of its frame. -/
theorem State.trapEntry_recorded (s : State) (offset ret : Word) (level : Option (BitVec 4)) :
    BreakRecorded s [] [s.sp - 4#32, s.sp - 8#32] (s.trapEntry .instruction offset ret level) := by
  have h := (s.push_recorded ret).trans (s.push_sameBreak .instruction ret)
    (State.push_recorded (s.push .instruction ret) s.psr)
  rw [State.push_sp, show s.sp - 4#32 - 4#32 = s.sp - 8#32 by bv_omega] at h
  exact h.congr (by simp [State.trapEntry, State.loadVector])

/-- `pushn` writes one word for each register. -/
theorem State.pushRegs_recorded (k : Nat) (s : State) :
    BreakRecorded s [] ((List.range k).map fun j => s.sp - BitVec.ofNat 32 (4 * (j + 1))) (s.pushRegs k) := by
  induction k generalizing s with
  | zero => exact BreakRecorded.refl s
  | succ k ih =>
    have h := (s.push_recorded (s.reg (Fin.ofNat 16 k))).trans (s.push_sameBreak .instruction _) (ih _)
    rw [State.push_sp, List.nil_append, List.singleton_append] at h
    rw [State.pushRegs, List.range_succ_eq_map, List.map_cons, List.map_map]
    convert h using 1
    refine congrArg₂ List.cons rfl (List.map_congr_left fun j _ => ?_)
    simp only [Function.comp_apply]
    apply BitVec.eq_of_toNat_eq
    simp only [BitVec.toNat_sub, BitVec.toNat_ofNat]
    omega

theorem State.popRegs_sp (k : Nat) (s : State) : (s.popRegs k).sp = s.sp + BitVec.ofNat 32 (4 * k) := by
  induction k with
  | zero => simp [State.popRegs]
  | succ k ih =>
    simp only [State.popRegs, State.setReg_sp, State.pop_sp, ih]
    apply BitVec.eq_of_toNat_eq
    simp only [BitVec.toNat_add, BitVec.toNat_ofNat]
    omega

/-- `popn` reads one word for each register. -/
theorem State.popRegs_recorded (k : Nat) (s : State) :
    BreakRecorded s ((List.range k).map fun j => s.sp + BitVec.ofNat 32 (4 * j)) [] (s.popRegs k) ∧
      SameBreak s (s.popRegs k) := by
  induction k with
  | zero => exact ⟨BreakRecorded.refl s, SameBreak.refl s⟩
  | succ k ih =>
    have h := ih.1.trans ih.2 (State.pop_recorded _)
    rw [State.popRegs_sp] at h
    rw [State.popRegs, List.range_succ, List.map_append]
    exact ⟨h.congr rfl, (ih.2.trans (State.pop_sameBreak _)).trans ⟨rfl, fun _ => rfl, fun _ => rfl, rfl⟩⟩

/-- A repeat of `mac` reads its two half words. -/
theorem State.macRepeat_recorded (s : State) (rs : Reg) :
    BreakRecorded s [s.reg (nextReg rs 1), s.reg (nextReg rs 2)] [] (s.macRepeat rs) := by
  refine ((s.noteRead_recorded .half _).trans (s.noteRead_sameBreak .half _)
    (State.noteRead_recorded _ .half (s.reg (nextReg rs 2)))).congr ?_
  unfold State.macRepeat
  dsimp only
  split <;> rfl

end Sys2Proof.Machine
end

