-- ==== Sys2Proof/Laws/Ext.lean ====
section
/-! SUPPORT. The shared operations that do not read the pending `ext` do the same with and without one. -/

namespace Sys2Proof.Machine

/-- `s` with another pending `ext`. -/
def State.withExt (s : State) (e : Ext) : State := { s with ext := e }

theorem State.touch_withExt (s : State) (e : Ext) (size : Size) (x : Word) :
    (s.withExt e).touch size x = (s.touch size x).withExt e := by
  unfold State.touch
  have : (s.withExt e).accessAddresses size x = s.accessAddresses size x := rfl
  have h2 : (s.withExt e).debugCtl = s.debugCtl := rfl
  rw [this, h2]
  split <;> rfl

theorem State.armDataBreak_withExt (s : State) (e : Ext) (w : Bool) (x : Word) :
    (s.withExt e).armDataBreak w x = (s.armDataBreak w x).withExt e := by
  unfold State.armDataBreak
  have : (s.withExt e).dataBreakMatches w x = s.dataBreakMatches w x := rfl
  rw [this]
  split <;> rfl

theorem State.noteRead_withExt (s : State) (e : Ext) (size : Size) (x : Word) :
    (s.withExt e).noteRead size x = (s.noteRead size x).withExt e := by
  simp only [State.noteRead, State.touch_withExt, State.armDataBreak_withExt]

theorem State.noteWrite_withExt (s : State) (e : Ext) (size : Size) (x : Word) :
    (s.withExt e).noteWrite size x = (s.noteWrite size x).withExt e := by
  simp only [State.noteWrite, State.touch_withExt, State.armDataBreak_withExt]; rfl

theorem State.writeByte_withExt (s : State) (e : Ext) (a : Nat) (b : Byte) :
    (s.withExt e).writeByte a b = (s.writeByte a b).withExt e := by
  unfold State.writeByte
  have : (s.withExt e).userMode = s.userMode := rfl
  rw [this]
  split
  · rfl
  · split
    · next k _ => cases k <;> rfl
    · have : (s.withExt e).cfg = s.cfg := rfl
      rw [this]
      split <;> rfl

theorem State.writeBytes_withExt (s : State) (e : Ext) (x v : Word) (n : Nat) :
    (s.withExt e).writeBytes x v n = (s.writeBytes x v n).withExt e := by
  induction n with
  | zero => rfl
  | succ n ih =>
    have : (s.withExt e).byteAddress x n = s.byteAddress x n := rfl
    rw [State.writeBytes, ih, this, State.writeByte_withExt]; rfl

theorem State.store_withExt (s : State) (e : Ext) (size : Size) (x v : Word) :
    (s.withExt e).store size x v = (s.store size x v).withExt e := by
  rw [State.store, State.noteWrite_withExt, State.writeBytes_withExt]; rfl

theorem State.push_withExt (s : State) (e : Ext) (ag : Agent) (v : Word) :
    (s.withExt e).push ag v = (s.push ag v).withExt e := by
  unfold State.push
  cases ag
  · exact State.store_withExt { s with sp := s.sp - 4#32 } e .word _ v
  · show State.writeBytes (State.touch (State.withExt { s with sp := s.sp - 4#32 } e) _ _) _ v 4 = _
    rw [State.touch_withExt, State.writeBytes_withExt]
    rfl

theorem State.trapEntry_withExt (s : State) (e : Ext) (ag : Agent) (o r : Word) (l : Option (BitVec 4)) :
    (s.withExt e).trapEntry ag o r l = s.trapEntry ag o r l := by
  have key : ∀ (u : State) (p : Word),
      ({ ({ (u.withExt e) with psr := p }.loadVector 1 o) with ext := .none, run := .running } : State) =
      { ({ u with psr := p }.loadVector 1 o) with ext := .none, run := .running } := by
    intro u p
    have h1 : ({ (u.withExt e) with psr := p } : State) = State.withExt { u with psr := p } e := rfl
    rw [h1]
    simp only [State.loadVector, State.touch_withExt]
    rfl
  unfold State.trapEntry
  have h2 : (s.withExt e).psr = s.psr := rfl
  simp only [h2, State.push_withExt]
  exact key _ _

/-- The address error exception uses up the pending `ext` (60_exceptions.md R423). -/
theorem State.addressError_withExt (s : State) (e : Ext) : (s.withExt e).addressError = s.addressError :=
  s.trapEntry_withExt e .hardware 24#32 s.pc none

theorem State.pop_withExt (s : State) (e : Ext) : (s.withExt e).pop = s.pop.withExt e := by
  have : (s.withExt e).sp = s.sp := rfl
  simp only [State.pop, this, State.noteRead_withExt]
  rfl

theorem State.read32_withExt (s : State) (e : Ext) (k : Nat) (x : Word) : (s.withExt e).read32 k x = s.read32 k x := rfl

/-- A repeat of `mac` does not read the pending `ext`. -/
theorem State.macRepeat_withExt (s : State) (e : Ext) (rs : Reg) : (s.withExt e).macRepeat rs = (s.macRepeat rs).withExt e := by
  have hr : ∀ r, (s.withExt e).reg r = s.reg r := fun _ => rfl
  have h16 : ∀ k x, (s.withExt e).read16 k x = s.read16 k x := fun _ _ => rfl
  have ha : (s.withExt e).ahr = s.ahr := rfl
  have hl : (s.withExt e).alr = s.alr := rfl
  simp only [State.macRepeat, hr, h16, ha, hl, State.noteRead_withExt]
  split <;> rfl

/-- A repeat of `mac` leaves the pending `ext` as it is (10_state.md R50). -/
@[simp] theorem State.macRepeat_ext (s : State) (rs : Reg) : (s.macRepeat rs).ext = s.ext := by
  have h := congrArg State.ext (s.macRepeat_withExt s.ext rs)
  exact h

end Sys2Proof.Machine
end

