-- ==== Sys2Proof/Laws/Mapped.lean ====
section
/-! SUPPORT. What a byte write does to the registers that lie in memory, at every address. -/

namespace Sys2Proof.Machine

/-- A bit of a word register after one of its bytes was written, the unimplemented bits being 0. -/
theorem getLsbD_writeField {w mask : Word} (hw : w &&& ~~~mask = 0#32) (i : Nat) (b : Byte) {k : Nat} (hk : k < 32) :
    (withByte w i b &&& mask).getLsbD k = if k / 8 = i then b.getLsbD (k % 8) && mask.getLsbD k else w.getLsbD k := by
  have h := congrArg (fun v => v.getLsbD k) hw
  simp only [BitVec.getLsbD_and, BitVec.getLsbD_not, hk, decide_true, Bool.true_and, BitVec.getLsbD_zero] at h
  rw [BitVec.getLsbD_and, getLsbD_withByte w i b hk]
  by_cases hi : k / 8 = i
  · rw [if_pos (by omega), if_pos hi, show k - 8 * i = k % 8 by omega]
  · rw [if_neg (by omega), if_neg hi]
    cases hm : mask.getLsbD k <;> simp_all

/-- The implemented bits of the word registers. -/
theorem getLsbD_masks : ∀ k < 32, (0x0FFFFC00#32).getLsbD k = decide (10 ≤ k ∧ k < 28) ∧
    (0x0FFFFFFE#32).getLsbD k = decide (1 ≤ k ∧ k < 28) ∧ (0x0FFFFFFF#32).getLsbD k = decide (k < 28) := by decide

/-- The bytes of a word register are numbered 0 to 3. -/
theorem mappedByte?_index {a i : Nat} {r : MappedByte} (h : mappedByte? a = some r)
    (hr : r ∈ [MappedByte.ttbr i, .ibar0 i, .ibar1 i, .ibar2 i, .dbar i]) : i < 4 := by
  unfold mappedByte? at h
  repeat' split at h
  all_goals first
    | contradiction
    | (injection h with h; subst h; simp at hr; try omega)

/-- Where an address that holds no mapped byte does not lie. -/
theorem mappedByte?_none {a : Nat} (h : mappedByte? a = none) :
    a ≠ 0x004812D ∧ ¬(0x48134 ≤ a ∧ a < 0x48138) ∧ a ≠ 0x78000 ∧ a ≠ 0x78002 ∧ a ≠ 0x78010 ∧ a ≠ 0x78012 ∧
      ¬(0x78004 ≤ a ∧ a < 0x78010) ∧ ¬(0x78014 ≤ a ∧ a < 0x78018) := by
  unfold mappedByte? at h
  repeat' split at h
  all_goals first
    | contradiction
    | (simp only [tbrpAddress, ttbrAddress] at *; refine ⟨?_, ?_, ?_, ?_, ?_, ?_, ?_, ?_⟩ <;> omega)

/-- What a byte write does to the memory-mapped registers, at any address. -/
theorem State.writeByte_written {s : State} (h : MappedBits s) (a : Nat) (b : Byte) :
    MappedByteWritten s a b (s.writeByte a b) := by
  have m1 : ∀ k < 32, (0x0FFFFC00#32).getLsbD k = decide (10 ≤ k ∧ k < 28) := fun k hk => (getLsbD_masks k hk).1
  have m2 : ∀ k < 32, (0x0FFFFFFE#32).getLsbD k = decide (1 ≤ k ∧ k < 28) := fun k hk => (getLsbD_masks k hk).2.1
  have m3 : ∀ k < 32, (0x0FFFFFFF#32).getLsbD k = decide (k < 28) := fun k hk => (getLsbD_masks k hk).2.2
  unfold State.writeByte
  split
  · next hg =>
    obtain ⟨h1, h2, hu⟩ := hg
    simp only [debugRegistersFirst] at h1
    constructor <;> (try intro k hk) <;> try simp only [hu, Bool.true_eq_false, and_false, false_and, if_false]
    · rw [if_neg (by omega), bne_iff_ne.mpr (by omega), Bool.and_true]
    · rw [if_neg (by omega)]
  · next hg =>
    have hw : 0x78000 ≤ a → a ≤ 0x78017 → s.userMode = false := fun h1 h2 => by
      simp only [debugRegistersFirst, debugWindowLast] at hg
      cases hu : s.userMode with
      | false => rfl
      | true => exact absurd ⟨h1, by omega, hu⟩ hg
    have plain : ∀ t : State, MappedFrame s t → a ≠ 0x004812D → ¬(0x48134 ≤ a ∧ a < 0x48138) →
        a ≠ 0x78000 → a ≠ 0x78002 → a ≠ 0x78010 → a ≠ 0x78012 → ¬(0x78004 ≤ a ∧ a < 0x78010) →
        ¬(0x78014 ≤ a ∧ a < 0x78018) → MappedByteWritten s a b t := by
      intro t f n1 n2 n3 n4 n5 n6 n7 n8
      constructor <;> (try intro k hk)
      · rw [if_neg n1, bne_iff_ne.mpr (by omega), Bool.and_true, f.ttbrWe]
      · rw [if_neg (by omega), f.ttbr]
      · rw [if_neg (by omega), f.dcr]
      · rw [if_neg (by omega), f.dsr]
      · rw [if_neg (by omega), f.dcr2]
      · rw [if_neg (by omega), f.dsr2]
      · rw [if_neg (by omega), f.ibar0]
      · rw [if_neg (by omega), f.ibar1]
      · rw [if_neg (by omega), f.ibar2]
      · rw [if_neg (by omega), f.dbar]
    have we : ∀ a, a ≠ 0x004812D → a ≠ 0x0048137 →
        (if a = 0x004812D then b == 0x59#8 else s.ttbrWe && a != 0x0048137) = s.ttbrWe := fun a n1 n2 => by
      rw [if_neg n1, bne_iff_ne.mpr n2, Bool.and_true]
    cases hk : mappedByte? a with
    | none =>
      obtain ⟨n1, n2, n3, n4, n5, n6, n7, n8⟩ := mappedByte?_none hk
      dsimp only
      split <;> exact plain _ ⟨rfl, rfl, rfl, rfl, rfl, rfl, rfl, rfl, rfl, rfl⟩ n1 n2 n3 n4 n5 n6 n7 n8
    | some r =>
      have ha := mappedByte?_address hk
      have hi : ∀ i, r ∈ [MappedByte.ttbr i, .ibar0 i, .ibar1 i, .ibar2 i, .dbar i] → i < 4 := fun i => mappedByte?_index hk
      dsimp only
      cases r with
      | tbrp =>
        simp only [MappedByte.address, tbrpAddress] at ha
        subst ha
        constructor <;> (try intro k hk) <;>
          first
            | exact (if_neg (by omega)).symm
            | skip
        exact (if_pos rfl).symm
      | ttbr i =>
        have hj := hi i (by simp)
        simp only [MappedByte.address, ttbrAddress] at ha
        subst ha
        constructor <;> (try intro k hk) <;>
          first
            | exact (if_neg (by omega)).symm
            | skip
        · show (s.ttbrWe && i != 3) = _
          rw [if_neg (by omega)]
          congr 1
          rw [Bool.eq_iff_iff, bne_iff_ne, bne_iff_ne]
          omega
        · show (if s.ttbrWe = true then withByte s.ttbr i b &&& 0x0FFFFC00#32 else s.ttbr).getLsbD k = _
          cases s.ttbrWe
          · rw [if_neg (by simp), if_neg (by simp)]
          · rw [if_pos rfl, getLsbD_writeField h.ttbr i b hk, m1 k hk]
            exact if_congr ⟨fun h => ⟨rfl, by omega⟩, fun h => by have := h.2; omega⟩ rfl rfl
      | dcr =>
        simp only [MappedByte.address] at ha
        subst ha
        constructor <;> (try intro k hk) <;>
          first
            | exact (we _ (by omega) (by omega)).symm
            | exact (if_neg (by omega)).symm
            | skip
        exact (if_pos ⟨rfl, hw (by omega) (by omega)⟩).symm
      | dsr =>
        simp only [MappedByte.address] at ha
        subst ha
        constructor <;> (try intro k hk) <;>
          first
            | exact (we _ (by omega) (by omega)).symm
            | exact (if_neg (by omega)).symm
            | skip
        exact (if_pos ⟨rfl, hw (by omega) (by omega)⟩).symm
      | ibar0 i =>
        have hj := hi i (by simp)
        simp only [MappedByte.address] at ha
        subst ha
        constructor <;> (try intro k hk) <;>
          first
            | exact (we _ (by omega) (by omega)).symm
            | exact (if_neg (by omega)).symm
            | skip
        exact (getLsbD_writeField h.ibar0 i b hk).trans (m2 k hk ▸ if_congr (by simp [hw (by omega) (by omega)]; omega) rfl rfl)
      | ibar1 i =>
        have hj := hi i (by simp)
        simp only [MappedByte.address] at ha
        subst ha
        constructor <;> (try intro k hk) <;>
          first
            | exact (we _ (by omega) (by omega)).symm
            | exact (if_neg (by omega)).symm
            | skip
        exact (getLsbD_writeField h.ibar1 i b hk).trans (m2 k hk ▸ if_congr (by simp [hw (by omega) (by omega)]; omega) rfl rfl)
      | dbar i =>
        have hj := hi i (by simp)
        simp only [MappedByte.address] at ha
        subst ha
        constructor <;> (try intro k hk) <;>
          first
            | exact (we _ (by omega) (by omega)).symm
            | exact (if_neg (by omega)).symm
            | skip
        exact (getLsbD_writeField h.dbar i b hk).trans (m3 k hk ▸ if_congr (by simp [hw (by omega) (by omega)]; omega) rfl rfl)
      | dcr2 =>
        simp only [MappedByte.address] at ha
        subst ha
        constructor <;> (try intro k hk) <;>
          first
            | exact (we _ (by omega) (by omega)).symm
            | exact (if_neg (by omega)).symm
            | skip
        exact (if_pos ⟨rfl, hw (by omega) (by omega)⟩).symm
      | dsr2 =>
        simp only [MappedByte.address] at ha
        subst ha
        constructor <;> (try intro k hk) <;>
          first
            | exact (we _ (by omega) (by omega)).symm
            | exact (if_neg (by omega)).symm
            | skip
        exact (if_pos ⟨rfl, hw (by omega) (by omega)⟩).symm
      | ibar2 i =>
        have hj := hi i (by simp)
        simp only [MappedByte.address] at ha
        subst ha
        constructor <;> (try intro k hk) <;>
          first
            | exact (we _ (by omega) (by omega)).symm
            | exact (if_neg (by omega)).symm
            | skip
        exact (getLsbD_writeField h.ibar2 i b hk).trans (m2 k hk ▸ if_congr (by simp [hw (by omega) (by omega)]; omega) rfl rfl)

end Sys2Proof.Machine
end

