-- ==== Sys2Proof/Laws/Step.lean ====
section
/-! SUPPORT. What a step is, once for each kind of step. -/

namespace Sys2Proof.Machine

/-- Beginning a step and latching its input change no trap mask. -/
theorem State.atBoundary_masked (s : State) : s.atBoundary.masked = s.masked := rfl

/-- An ordinary step is what its boundary answers. -/
theorem step_ordinary {s : State} (h : OrdinaryInput s) : step s = s.atBoundary.runBoundary s.nextInput.irq := by
  unfold step State.runInput
  rw [show s.begun.cfg = s.cfg from rfl, h.irq, h.reset]
  simp [State.atBoundary, h.busreq]

/-- A boundary that takes a trap is the whole step. -/
theorem step_taken {s t : State} (h : OrdinaryInput s) (hb : s.atBoundary.boundary s.nextInput.irq = .taken t) :
    step s = settle t := by
  rw [step_ordinary h, State.runBoundary, hb]

/-- A boundary that takes no trap leaves a running core to fetch and execute. -/
theorem step_passed {s t : State} (h : OrdinaryInput s) (hb : s.atBoundary.boundary s.nextInput.irq = .passed t)
    (hr : t.run = .running) :
    step s = match t.fetch with
      | .error answer => answer
      | .ok i => t.finish i (exec i t) := by
  rw [step_ordinary h, State.runBoundary, hb]
  exact (if_pos hr).trans (by cases t.fetch <;> rfl)

/-- A boundary that takes no trap is the whole step of a powered-down core. -/
theorem step_powered_down {s t : State} (h : OrdinaryInput s) (hb : s.atBoundary.boundary s.nextInput.irq = .passed t)
    (hr : t.run ≠ .running) : step s = .next t := by
  rw [step_ordinary h, State.runBoundary, hb]
  exact if_neg hr

/-- A reset is the whole step. -/
theorem step_reset {s : State} {kind : ResetKind} (h : s.nextInput.reset = some kind)
    (hi : impossibleRequest s.cfg s.nextInput.irq = false) : step s = .next (s.begun.resetProcessing kind) := by
  unfold step State.runInput
  rw [show s.begun.cfg = s.cfg from rfl, hi, h]
  simp

/-- A bus release is the whole step. -/
theorem step_released {s : State} (h : s.nextInput.reset = none) (hb : s.nextInput.busreq = true)
    (hi : impossibleRequest s.cfg s.nextInput.irq = false) :
    step s = .next (s.atBoundary.masterWrites s.nextInput.busWrites) := by
  unfold step State.runInput
  rw [show s.begun.cfg = s.cfg from rfl, hi, h]
  simp [State.atBoundary, hb]

/-- One byte from the external master: external RAM takes it, and nothing else changes. -/
theorem State.masterWrite_spec (s : State) (c : Host.Cell) :
    ∃ mem, s.masterWrite c = { s with mem := mem } ∧ ∀ a, Memory.read mem a =
      if externalFirst ≤ a ∧ kindAt s.cfg a = .ram ∧ busAddress s.cfg (BitVec.ofNat 32 c.1) = a then c.2
      else Memory.read s.mem a := by
  unfold State.masterWrite
  dsimp only
  split
  · next h =>
    refine ⟨_, rfl, fun a => ?_⟩
    rw [Memory.read_write]
    by_cases ha : busAddress s.cfg (BitVec.ofNat 32 c.1) = a
    · subst ha
      rw [if_pos rfl, if_pos ⟨h.1, h.2, rfl⟩]
    · rw [if_neg (Ne.symm ha), if_neg fun h' => ha h'.2.2]
  · next h =>
    refine ⟨s.mem, rfl, fun a => (if_neg ?_).symm⟩
    rintro ⟨h1, h2, rfl⟩
    exact h ⟨h1, h2⟩

/-- What the external master writes in a step: a byte of external RAM becomes what is written there last. -/
theorem State.masterWrites_spec (cells : List Host.Cell) (s : State) :
    ∃ mem, s.masterWrites cells = { s with mem := mem } ∧
      (∀ a, a < externalFirst ∨ kindAt s.cfg a ≠ .ram → Memory.read mem a = Memory.read s.mem a) ∧
      ∀ a, externalFirst ≤ a → kindAt s.cfg a = .ram → Memory.read mem a =
        ((cells.reverse.find? fun c => busAddress s.cfg (BitVec.ofNat 32 c.1) = a).map Prod.snd).getD
          (Memory.read s.mem a) := by
  induction cells generalizing s with
  | nil => exact ⟨s.mem, rfl, fun _ _ => rfl, fun _ _ _ => rfl⟩
  | cons c rest ih =>
    obtain ⟨m1, e1, r1⟩ := s.masterWrite_spec c
    obtain ⟨m2, e2, q2, r2⟩ := ih (s.masterWrite c)
    rw [e1] at q2 r2
    refine ⟨m2, ?_, fun a ha => ?_, fun a h1 h2 => ?_⟩
    · show (s.masterWrite c).masterWrites rest = _
      rw [e2, e1]
    · rw [q2 a ha, r1, if_neg]
      rintro ⟨h1, h2, -⟩
      exact ha.elim (fun h => absurd h1 (by omega)) fun h => h h2
    · rw [r2 a h1 h2, r1, List.reverse_cons, List.find?_append]
      by_cases hc : busAddress s.cfg (BitVec.ofNat 32 c.1) = a
      · rw [if_pos ⟨h1, h2, hc⟩]
        cases rest.reverse.find? fun c => decide (busAddress s.cfg (BitVec.ofNat 32 c.1) = a) <;> simp [hc]
      · rw [if_neg fun h => hc h.2.2]
        cases rest.reverse.find? fun c => decide (busAddress s.cfg (BitVec.ofNat 32 c.1) = a) <;> simp [hc]

end Sys2Proof.Machine
end

