-- ==== Sys2Proof/WellFormed.lean ====
section
/-! DEFINITION. Which instruction sequences the spec gives a meaning (47_branch.md R327, R328; 48_system_ext_misc.md R378). Every operand range is carried by the types of Syntax.lean, so one instruction alone is always well formed; what the spec restricts is what may stand after a delayed branch. -/

namespace Sys2Proof

/-- `i` may be executed while a delayed branch is or is not pending: after a `.d` branch only the 38
forms of 47_branch.md R327 have a meaning. -/
def Instr.wellFormedAfter (delayedBranchPending : Bool) (i : Instr) : Bool :=
  !delayedBranchPending || i.isDelaySlotForm

/-- A straight-line sequence executed from the state `delayedBranchPending`: each instruction has a
meaning where it stands, and a delayed branch at the end is refused because its delayed instruction is missing. -/
def wellFormedFrom : Bool → List Instr → Bool
  | delayedBranchPending, [] => !delayedBranchPending
  | delayedBranchPending, i :: rest =>
    i.wellFormedAfter delayedBranchPending && wellFormedFrom i.isDelayedBranch rest

/-- A straight-line sequence that starts with no delayed branch pending. -/
def wellFormedSequence (is : List Instr) : Bool :=
  wellFormedFrom false is

end Sys2Proof
end

