-- ==== Sys2Proof/Tests/Slice0.lean ====
section
/-! SUPPORT. Tests of the model: the codes and single-step vectors of the spec's own tables (95_test_vectors.md, 96_test_vectors_part2.md), the refusals of the well-formedness check, and for each statement with hypotheses a state that meets them. -/

namespace Sys2Proof.Tests

open Sys2Proof.Machine

set_option Elab.async false

/-! ### Well-formedness -/

/-- A delayed branch followed by a form of 47_branch.md R327, twice. -/
theorem test_wellFormed_accepts :
    wellFormedSequence [.ext 1#13, .jpDelayed 4#8, .addImm 0 1#6, .callRegDelayed 3, .ldWReg 1 2, .ret] = true := by
  decide

theorem test_wellFormed_refuses_nop : wellFormedSequence [.jpDelayed 4#8, .nop] = false := by decide

theorem test_wellFormed_refuses_ext : wellFormedSequence [.jreqDelayed 4#8, .ext 1#13, .addImm 0 1#6] = false := by decide

theorem test_wellFormed_refuses_load : wellFormedSequence [.retDelayed, .ldWInd 0 1] = false := by decide

theorem test_wellFormed_refuses_branch : wellFormedSequence [.jpDelayed 4#8, .jpDelayed 4#8, .addImm 0 1#6] = false := by
  decide

theorem test_wellFormed_refuses_multiply : wellFormedSequence [.callDelayed 4#8, .mltW 0 1] = false := by decide

theorem test_wellFormed_refuses_missing : wellFormedSequence [.addImm 0 1#6, .jpRegDelayed 2] = false := by decide

/-! ### Decoding -/

/-- Class 0, one code of each row (96_test_vectors_part2.md 2.12). -/
theorem test_decode_class0 :
    ∀ p ∈ ([(0x0205#16, .pushn 5), (0x024A#16, .popn 10), (0x0896#16, .jrgt 0x96#8),
        (0x0996#16, .jrgtDelayed 0x96#8), (0x0A96#16, .jrge 0x96#8), (0x0B96#16, .jrgeDelayed 0x96#8),
        (0x0C96#16, .jrlt 0x96#8), (0x0D96#16, .jrltDelayed 0x96#8), (0x0E96#16, .jrle 0x96#8),
        (0x0F96#16, .jrleDelayed 0x96#8), (0x1096#16, .jrugt 0x96#8), (0x1196#16, .jrugtDelayed 0x96#8),
        (0x1296#16, .jruge 0x96#8), (0x1396#16, .jrugeDelayed 0x96#8), (0x1496#16, .jrult 0x96#8),
        (0x1596#16, .jrultDelayed 0x96#8), (0x1696#16, .jrule 0x96#8), (0x1796#16, .jruleDelayed 0x96#8),
        (0x1896#16, .jreq 0x96#8), (0x1996#16, .jreqDelayed 0x96#8), (0x1A96#16, .jrne 0x96#8),
        (0x1B96#16, .jrneDelayed 0x96#8), (0x1C96#16, .call 0x96#8), (0x1D96#16, .callDelayed 0x96#8),
        (0x1E96#16, .jp 0x96#8), (0x1F96#16, .jpDelayed 0x96#8), (0x0606#16, .callReg 6),
        (0x0706#16, .callRegDelayed 6), (0x0640#16, .ret), (0x0740#16, .retDelayed),
        (0x0686#16, .jpReg 6), (0x0786#16, .jpRegDelayed 6), (0x0400#16, .brk),
        (0x0440#16, .retd), (0x0482#16, .int 0x2#2), (0x04C0#16, .reti),
        (0x0000#16, .nop), (0x0040#16, .slp), (0x0080#16, .halt)] :
        List (BitVec 16 × Instr)), decode p.1 = .ok p.2 := by decide +kernel

/-- Class 1, one code of each row (96_test_vectors_part2.md 2.12). -/
theorem test_decode_class1 :
    ∀ p ∈ ([(0x206A#16, .ldBInd 10 6), (0x216A#16, .ldBPost 10 6), (0x3465#16, .stBInd 6 5),
        (0x3565#16, .stBPost 6 5), (0x246A#16, .ldUbInd 10 6), (0x256A#16, .ldUbPost 10 6),
        (0x286A#16, .ldHInd 10 6), (0x296A#16, .ldHPost 10 6), (0x3865#16, .stHInd 6 5),
        (0x3965#16, .stHPost 6 5), (0x2C6A#16, .ldUhInd 10 6), (0x2D6A#16, .ldUhPost 10 6),
        (0x2E5A#16, .ldWReg 10 5), (0x306A#16, .ldWInd 10 6), (0x316A#16, .ldWPost 10 6),
        (0x3C65#16, .stWInd 6 5), (0x3D65#16, .stWPost 6 5), (0x325A#16, .andReg 10 5),
        (0x365A#16, .orReg 10 5), (0x3A5A#16, .xorReg 10 5), (0x3E5A#16, .notReg 10 5),
        (0x225A#16, .addReg 10 5), (0x265A#16, .subReg 10 5), (0x2A5A#16, .cmpReg 10 5)] :
        List (BitVec 16 × Instr)), decode p.1 = .ok p.2 := by decide +kernel

/-- Class 2, one code of each row (96_test_vectors_part2.md 2.12). -/
theorem test_decode_class2 :
    ∀ p ∈ ([(0x42BA#16, .ldBSp 10 0x2B#6), (0x56B5#16, .stBSp 0x2B#6 5), (0x46BA#16, .ldUbSp 10 0x2B#6),
        (0x4ABA#16, .ldHSp 10 0x2B#6), (0x5AB5#16, .stHSp 0x2B#6 5), (0x4EBA#16, .ldUhSp 10 0x2B#6),
        (0x52BA#16, .ldWSp 10 0x2B#6), (0x5EB5#16, .stWSp 0x2B#6 5)] :
        List (BitVec 16 × Instr)), decode p.1 = .ok p.2 := by decide +kernel

/-- Class 3, one code of each row (96_test_vectors_part2.md 2.12). -/
theorem test_decode_class3 :
    ∀ p ∈ ([(0x6EBA#16, .ldWImm 10 0x2B#6), (0x72BA#16, .andImm 10 0x2B#6), (0x76BA#16, .orImm 10 0x2B#6),
        (0x7ABA#16, .xorImm 10 0x2B#6), (0x7EBA#16, .notImm 10 0x2B#6), (0x62BA#16, .addImm 10 0x2B#6),
        (0x66BA#16, .subImm 10 0x2B#6), (0x6ABA#16, .cmpImm 10 0x2B#6)] :
        List (BitVec 16 × Instr)), decode p.1 = .ok p.2 := by decide +kernel

/-- Class 4, one code of each row (96_test_vectors_part2.md 2.12). -/
theorem test_decode_class4 :
    ∀ p ∈ ([(0x82A5#16, .addSp 0x2A5#10), (0x86A5#16, .subSp 0x2A5#10), (0x8B50#16, .div0s 5),
        (0x8F50#16, .div0u 5), (0x9350#16, .div1 5), (0x9750#16, .div2s 5),
        (0x9B70#16, .div3s 0x7#4), (0x889A#16, .srlImm 10 0x9#4), (0x895A#16, .srlReg 10 5),
        (0x8C9A#16, .sllImm 10 0x9#4), (0x8D5A#16, .sllReg 10 5), (0x909A#16, .sraImm 10 0x9#4),
        (0x915A#16, .sraReg 10 5), (0x949A#16, .slaImm 10 0x9#4), (0x955A#16, .slaReg 10 5),
        (0x989A#16, .rrImm 10 0x9#4), (0x995A#16, .rrReg 10 5), (0x9C9A#16, .rlImm 10 0x9#4),
        (0x9D5A#16, .rlReg 10 5), (0x8A5A#16, .scan0 10 5), (0x8E5A#16, .scan1 10 5),
        (0x925A#16, .swap 10 5), (0x965A#16, .mirror 10 5)] :
        List (BitVec 16 × Instr)), decode p.1 = .ok p.2 := by decide +kernel

/-- Class 5, one code of each row (96_test_vectors_part2.md 2.12). -/
theorem test_decode_class5 :
    ∀ p ∈ ([(0xA15A#16, .ldBReg 10 5), (0xA55A#16, .ldUbReg 10 5), (0xA95A#16, .ldHReg 10 5),
        (0xAD5A#16, .ldUhReg 10 5), (0xA052#16, .ldWToSpecial .alr 5), (0xA43A#16, .ldWFromSpecial 10 .ahr),
        (0xB85A#16, .adc 10 5), (0xBC5A#16, .sbc 10 5), (0xA25A#16, .mltH 10 5),
        (0xA65A#16, .mltuH 10 5), (0xAA5A#16, .mltW 10 5), (0xAE5A#16, .mltuW 10 5),
        (0xB250#16, .mac 5), (0xA865#16, .btst 6 0x5#3), (0xAC65#16, .bclr 6 0x5#3),
        (0xB065#16, .bset 6 0x5#3), (0xB465#16, .bnot 6 0x5#3)] :
        List (BitVec 16 × Instr)), decode p.1 = .ok p.2 := by decide +kernel

/-- Class 6, one code of each row (96_test_vectors_part2.md 2.12). -/
theorem test_decode_class6 :
    ∀ p ∈ ([(0xD234#16, .ext 0x1234#13)] :
        List (BitVec 16 × Instr)), decode p.1 = .ok p.2 := by decide +kernel


/-- The ends of the fields (96_test_vectors_part2.md 2.12). -/
theorem test_decode_boundaries :
    decode 0x9B50#16 = .ok (.div3s 5#4) ∧ decode 0xA0F1#16 = .ok (.ldWToSpecial .sp 15) ∧
    decode 0xA43F#16 = .ok (.ldWFromSpecial 15 .ahr) ∧ decode 0x0483#16 = .ok (.int 3#2) ∧
    decode 0x020F#16 = .ok (.pushn 15) ∧ decode 0x068F#16 = .ok (.jpReg 15) ∧
    decode 0x1FFF#16 = .ok (.jpDelayed 0xFF#8) ∧ decode 0x0800#16 = .ok (.jrgt 0#8) ∧
    decode 0x83FF#16 = .ok (.addSp 0x3FF#10) ∧ decode 0xA8F7#16 = .ok (.btst 15 7#3) ∧
    decode 0xDFFF#16 = .ok (.ext 0x1FFF#13) ∧ decode 0x5FFF#16 = .ok (.stWSp 0x3F#6 15) ∧
    decode 0x7FFF#16 = .ok (.notImm 15 0x3F#6) := by
  decide +kernel

/-- The table's own numbering of bits, and bits above `nbits` taken as 0. -/
theorem test_decodeTableWord :
    decodeTableWord 16 0xA15A = some (.ldBReg 10 5) ∧ decodeTableWord 16 0x1A15A = some (.ldBReg 10 5) ∧
    decodeTableWord 16 0xE000 = none := by
  decide +kernel

/-- Reserved codes (96_test_vectors_part2.md 2.12). -/
theorem test_reserved_fixed_bits :
    ([0x0001#16, 0x0100#16, 0x0041#16, 0x0180#16, 0x0210#16, 0x0300#16, 0x0263#16, 0x0401#16, 0x0500#16, 0x0540#16,
        0x0484#16, 0x0580#16, 0x04C1#16, 0x05C0#16, 0x0610#16, 0x0641#16, 0x06A0#16, 0x8B01#16, 0x8F0F#16, 0x9301#16,
        0x9708#16, 0x9B01#16, 0xA808#16, 0xAC1F#16, 0xB008#16, 0xB408#16, 0xB201#16] :
        List (BitVec 16)).all (fun w => decode w = .error .fixedBitSet) := by decide +kernel

/-- Reserved codes (96_test_vectors_part2.md 2.12). -/
theorem test_reserved_operations :
    ([0x00C0#16, 0x00CF#16, 0x0280#16, 0x02C0#16, 0x06C0#16, 0x07C0#16, 0x2300#16, 0x27FF#16, 0x2F00#16, 0x3300#16,
        0x3F00#16, 0x9A00#16, 0x9E00#16, 0x9F00#16, 0xB100#16, 0xB500#16, 0xB900#16, 0xBD00#16, 0xB600#16, 0xBA00#16,
        0xBE00#16, 0xA300#16, 0xB300#16, 0xBF00#16] :
        List (BitVec 16)).all (fun w => decode w = .error .reservedOperation) := by decide +kernel

/-- Reserved codes (96_test_vectors_part2.md 2.12). -/
theorem test_reserved_special_registers :
    ([0xA004#16, 0xA00F#16, 0xA440#16, 0xA4F0#16] :
        List (BitVec 16)).all (fun w => decode w = .error .reservedSpecialRegister) := by decide +kernel

/-- Reserved codes (96_test_vectors_part2.md 2.12). -/
theorem test_reserved_class :
    ([0xE000#16, 0xF123#16, 0xFFFF#16] :
        List (BitVec 16)).all (fun w => decode w = .error .reservedClass) := by decide +kernel
/-! ### Single steps -/

/-- The `n` bytes of `v` from `a` upward, put into `mem` low byte first. -/
def put (mem : Memory) (a v : Nat) : Nat → Memory
  | 0 => mem
  | n + 1 => put (Memory.write mem a (BitVec.ofNat 8 v)) (a + 1) (v / 256) n

/-- The state the vectors start in: PC 0x0080100, SP 0x1000, TTBR 0x0080000, with the listed registers and the listed
(address, bytes, value) cells. -/
def start (regs : List (Reg × Word)) (cells : List (Nat × Nat × Nat)) : State :=
  { State.reset with
    pc := 0x80100#32
    sp := 0x1000#32
    regs := regs.foldl (fun rs p => rs.set p.1 p.2) State.reset.regs
    mem := cells.foldl (fun mem c => put mem c.1 c.2.2 c.2.1) [] }

/-- One step of the code `code` from `s` goes on, and the next state passes the check. -/
def runs (s : State) (code : Nat) (check : State → Bool) : Bool :=
  match step (s.withFetchWord 16 code) with
  | .next t => check t
  | _ => false

/-- Vector T1. -/
theorem test_ldBReg :
    runs { start [(2, 0x12345680)] [] with sp := 0x2000#32, psr := 0xF#32 } 0xA120
      (fun t => t.reg 0 == 0xFFFFFF80#32 && t.psr == 0xF#32) := by decide +kernel

/-- Vector T7. -/
theorem test_ldBInd :
    runs { start [(1, 0x2000)] [(0x2000, 4, 0xB3A29180)] with sp := 0x2000#32, psr := 0xF#32 } 0x2010
      (fun t => t.reg 0 == 0xFFFFFF80#32 && t.reg 1 == 0x2000#32 && t.psr == 0xF#32) := by decide +kernel

/-- Vector T15. -/
theorem test_ldBPost :
    runs { start [(1, 0x2000)] [(0x2000, 4, 0xB3A29180)] with sp := 0x2000#32, psr := 0xF#32 } 0x2110
      (fun t => t.reg 0 == 0xFFFFFF80#32 && t.reg 1 == 0x2001#32 && t.psr == 0xF#32) := by decide +kernel

/-- Vector T21. -/
theorem test_ldBSp :
    runs { start [] [(0x2000, 4, 0xB3A29180)] with sp := 0x2000#32, psr := 0xF#32 } 0x4030
      (fun t => t.reg 0 == 0xFFFFFFB3#32 && t.psr == 0xF#32) := by decide +kernel

/-- Vector T29. -/
theorem test_stBInd :
    runs { start [(1, 0x2000), (2, 0x11223344)] [(0x2000, 4, 0xB3A29180)] with sp := 0x2000#32, psr := 0xF#32 } 0x3412
      (fun t => t.read32 1 0x2000#32 == 0xB3A29144#32 && t.reg 1 == 0x2000#32 && t.psr == 0xF#32) := by decide +kernel

/-- Vector T33. -/
theorem test_stBPost :
    runs { start [(1, 0x2000), (2, 0x11223344)] [(0x2000, 4, 0xB3A29180)] with sp := 0x2000#32, psr := 0xF#32 } 0x3512
      (fun t => t.read32 1 0x2000#32 == 0xB3A29144#32 && t.reg 1 == 0x2001#32 && t.psr == 0xF#32) := by decide +kernel

/-- Vector T37. -/
theorem test_stBSp :
    runs { start [(1, 0x2000), (2, 0x11223344)] [(0x2004, 4, 0xF7E6D5C4)] with sp := 0x2000#32, psr := 0xF#32 } 0x5472
      (fun t => t.read32 1 0x2004#32 == 0x44E6D5C4#32 && t.reg 1 == 0x2000#32 && t.psr == 0xF#32) := by decide +kernel

/-- Vector T3. -/
theorem test_ldUbReg :
    runs { start [(2, 0x12345680)] [] with sp := 0x2000#32, psr := 0xF#32 } 0xA520
      (fun t => t.reg 0 == 0x80#32 && t.psr == 0xF#32) := by decide +kernel

/-- Vector T8. -/
theorem test_ldUbInd :
    runs { start [(1, 0x2000)] [(0x2000, 4, 0xB3A29180)] with sp := 0x2000#32, psr := 0xF#32 } 0x2410
      (fun t => t.reg 0 == 0x80#32 && t.reg 1 == 0x2000#32 && t.psr == 0xF#32) := by decide +kernel

/-- Vector T19. -/
theorem test_ldUbPost :
    runs { start [(1, 0x2000)] [(0x2000, 4, 0xB3A29180)] with sp := 0x2000#32, psr := 0xF#32 } 0x2511
      (fun t => t.reg 1 == 0x2001#32 && t.psr == 0xF#32) := by decide +kernel

/-- Vector T22. -/
theorem test_ldUbSp :
    runs { start [] [(0x2000, 4, 0xB3A29180)] with sp := 0x2000#32, psr := 0xF#32 } 0x4430
      (fun t => t.reg 0 == 0xB3#32 && t.psr == 0xF#32) := by decide +kernel

/-- Vector T4. -/
theorem test_ldHReg :
    runs { start [(2, 0x12348000)] [] with sp := 0x2000#32, psr := 0xF#32 } 0xA920
      (fun t => t.reg 0 == 0xFFFF8000#32 && t.psr == 0xF#32) := by decide +kernel

/-- Vector T9. -/
theorem test_ldHInd :
    runs { start [(1, 0x2000)] [(0x2000, 4, 0xB3A29180)] with sp := 0x2000#32, psr := 0xF#32 } 0x2810
      (fun t => t.reg 0 == 0xFFFF9180#32 && t.reg 1 == 0x2000#32 && t.psr == 0xF#32) := by decide +kernel

/-- Vector T16. -/
theorem test_ldHPost :
    runs { start [(1, 0x2000)] [(0x2000, 4, 0xB3A29180)] with sp := 0x2000#32, psr := 0xF#32 } 0x2910
      (fun t => t.reg 0 == 0xFFFF9180#32 && t.reg 1 == 0x2002#32 && t.psr == 0xF#32) := by decide +kernel

/-- Vector T23. -/
theorem test_ldHSp :
    runs { start [] [(0x2004, 4, 0xF7E6D5C4)] with sp := 0x2000#32, psr := 0xF#32 } 0x4830
      (fun t => t.reg 0 == 0xFFFFF7E6#32 && t.psr == 0xF#32) := by decide +kernel

/-- Vector T30. -/
theorem test_stHInd :
    runs { start [(1, 0x2000), (2, 0x11223344)] [(0x2000, 4, 0xB3A29180)] with sp := 0x2000#32, psr := 0xF#32 } 0x3812
      (fun t => t.read32 1 0x2000#32 == 0xB3A23344#32 && t.reg 1 == 0x2000#32 && t.psr == 0xF#32) := by decide +kernel

/-- Vector T34. -/
theorem test_stHPost :
    runs { start [(1, 0x2000), (2, 0x11223344)] [(0x2000, 4, 0xB3A29180)] with sp := 0x2000#32, psr := 0xF#32 } 0x3912
      (fun t => t.read32 1 0x2000#32 == 0xB3A23344#32 && t.reg 1 == 0x2002#32 && t.psr == 0xF#32) := by decide +kernel

/-- Vector T38. -/
theorem test_stHSp :
    runs { start [(1, 0x2000), (2, 0x11223344)] [(0x2004, 4, 0xF7E6D5C4)] with sp := 0x2000#32, psr := 0xF#32 } 0x5832
      (fun t => t.read32 1 0x2004#32 == 0x3344D5C4#32 && t.reg 1 == 0x2000#32 && t.psr == 0xF#32) := by decide +kernel

/-- Vector T5. -/
theorem test_ldUhReg :
    runs { start [(2, 0x12348000)] [] with sp := 0x2000#32, psr := 0xF#32 } 0xAD20
      (fun t => t.reg 0 == 0x8000#32 && t.psr == 0xF#32) := by decide +kernel

/-- Vector T10. -/
theorem test_ldUhInd :
    runs { start [(1, 0x2000)] [(0x2000, 4, 0xB3A29180)] with sp := 0x2000#32, psr := 0xF#32 } 0x2C10
      (fun t => t.reg 0 == 0x9180#32 && t.reg 1 == 0x2000#32 && t.psr == 0xF#32) := by decide +kernel

/-- Vector W53. -/
theorem test_ldUhPost :
    runs (start [(1, 0x2000), (0, 0x12345678)] [(0x2000, 4, 0xC3C28180)]) 0x2D10
      (fun t => t.reg 0 == 0x8180#32 && t.reg 1 == 0x2002#32) := by decide +kernel

/-- Vector T24. -/
theorem test_ldUhSp :
    runs { start [] [(0x2000, 4, 0xB3A29180)] with sp := 0x2000#32, psr := 0xF#32 } 0x4C10
      (fun t => t.reg 0 == 0xB3A2#32 && t.psr == 0xF#32) := by decide +kernel

/-- Vector T6. -/
theorem test_ldWReg :
    runs { start [(2, 0x12348000)] [] with sp := 0x2000#32, psr := 0xF#32 } 0x2E20
      (fun t => t.reg 0 == 0x12348000#32 && t.psr == 0xF#32) := by decide +kernel

/-- Vector W61. -/
theorem test_ldWToSpecial :
    runs (start [(0, 0x3003)] []) 0xA001 (fun t => t.reg 0 == 0x3003#32 && t.sp == 0x3000#32) := by decide +kernel

/-- Vector T45. -/
theorem test_ldWFromSpecial :
    runs { start [] [] with sp := 0x2000#32, psr := 0xF#32 } 0xA410
      (fun t => t.reg 0 == 0x2000#32 && t.psr == 0xF#32) := by decide +kernel

/-- Vector T40. -/
theorem test_ldWImm :
    runs { start [] [] with sp := 0x2000#32, psr := 0xF#32 } 0x6DF0
      (fun t => t.reg 0 == 0x1F#32 && t.psr == 0xF#32) := by decide +kernel

/-- Vector T11. -/
theorem test_ldWInd :
    runs { start [(1, 0x2000)] [(0x2000, 4, 0xB3A29180)] with sp := 0x2000#32, psr := 0xF#32 } 0x3010
      (fun t => t.reg 0 == 0xB3A29180#32 && t.reg 1 == 0x2000#32 && t.psr == 0xF#32) := by decide +kernel

/-- Vector T17. -/
theorem test_ldWPost :
    runs { start [(1, 0x2000)] [(0x2000, 4, 0xB3A29180)] with sp := 0x2000#32, psr := 0xF#32 } 0x3110
      (fun t => t.reg 0 == 0xB3A29180#32 && t.reg 1 == 0x2004#32 && t.psr == 0xF#32) := by decide +kernel

/-- Vector T25. -/
theorem test_ldWSp :
    runs { start [] [(0x2004, 4, 0xF7E6D5C4)] with sp := 0x2000#32, psr := 0xF#32 } 0x5010
      (fun t => t.reg 0 == 0xF7E6D5C4#32 && t.psr == 0xF#32) := by decide +kernel

/-- Vector T31. -/
theorem test_stWInd :
    runs { start [(1, 0x2000), (2, 0x11223344)] [(0x2000, 4, 0xB3A29180), (0x2004, 4, 0xF7E6D5C4)] with sp := 0x2000#32, psr := 0xF#32 } 0x3C12
      (fun t => t.read32 1 0x2000#32 == 0x11223344#32 && t.read32 1 0x2004#32 == 0xF7E6D5C4#32 && t.reg 1 == 0x2000#32 && t.psr == 0xF#32) := by decide +kernel

/-- Vector T35. -/
theorem test_stWPost :
    runs { start [(1, 0x2000), (2, 0x11223344)] [(0x2000, 4, 0xB3A29180)] with sp := 0x2000#32, psr := 0xF#32 } 0x3D12
      (fun t => t.read32 1 0x2000#32 == 0x11223344#32 && t.reg 1 == 0x2004#32 && t.psr == 0xF#32) := by decide +kernel

/-- Vector T39. -/
theorem test_stWSp :
    runs { start [(1, 0x2000), (2, 0x11223344)] [(0x2004, 4, 0xF7E6D5C4)] with sp := 0x2000#32, psr := 0xF#32 } 0x5C12
      (fun t => t.read32 1 0x2004#32 == 0x11223344#32 && t.reg 1 == 0x2000#32 && t.psr == 0xF#32) := by decide +kernel

/-- Vector L1. -/
theorem test_andReg :
    runs { start [(1, 0xF0F0F0F0), (2, 0xFF00FF0)] [] with psr := 0xC#32 } 0x3221
      (fun t => t.reg 1 == 0xF000F0#32 && t.psr == 0xC#32) := by decide +kernel

/-- Vector L4. -/
theorem test_andImm :
    runs { start [(1, 0xFFFFFFFF)] [] with psr := 0xC#32 } 0x73E1
      (fun t => t.reg 1 == 0xFFFFFFFE#32 && t.psr == 0xD#32) := by decide +kernel

/-- Vector L8. -/
theorem test_orReg :
    runs { start [(1, 0xF0000000), (2, 0xF)] [] with psr := 0xC#32 } 0x3621
      (fun t => t.reg 1 == 0xF000000F#32 && t.psr == 0xD#32) := by decide +kernel

/-- Vector L11. -/
theorem test_orImm :
    runs { start [(1, 0x1)] [] with psr := 0xC#32 } 0x77E1
      (fun t => t.reg 1 == 0xFFFFFFFF#32 && t.psr == 0xD#32) := by decide +kernel

/-- Vector L13. -/
theorem test_xorReg :
    runs { start [(1, 0xFFFF0000), (2, 0xFF00FF00)] [] with psr := 0xC#32 } 0x3A21
      (fun t => t.reg 1 == 0xFFFF00#32 && t.psr == 0xC#32) := by decide +kernel

/-- Vector L15. -/
theorem test_xorImm :
    runs { start [(1, 0xFFFF)] [] with psr := 0xC#32 } 0x7BF1
      (fun t => t.reg 1 == 0xFFFF0000#32 && t.psr == 0xD#32) := by decide +kernel

/-- Vector L17. -/
theorem test_notReg :
    runs { start [(1, 0x0), (2, 0x55555555)] [] with psr := 0xC#32 } 0x3E21
      (fun t => t.reg 1 == 0xAAAAAAAA#32 && t.psr == 0xD#32) := by decide +kernel

/-- Vector L20. -/
theorem test_notImm :
    runs { start [(1, 0x12345678)] [] with psr := 0xC#32 } 0x7DF1
      (fun t => t.reg 1 == 0xFFFFFFE0#32 && t.psr == 0xD#32) := by decide +kernel

/-- Vector A4. -/
theorem test_addReg :
    runs (start [(1, 0x80000000), (2, 0x80000000)] []) 0x2221
      (fun t => t.reg 1 == 0x0#32 && t.psr == 0xE#32) := by decide +kernel

/-- Vector A7. -/
theorem test_addImm :
    runs (start [(1, 0xFFFFFFC1)] []) 0x63F1 (fun t => t.reg 1 == 0x0#32 && t.psr == 0xA#32) := by decide +kernel

/-- Vector A45. -/
theorem test_addSp :
    runs { start [] [] with psr := 0xF#32 } 0x8100
      (fun t => t.sp == 0x1400#32 && t.psr == 0xF#32) := by decide +kernel

/-- Vector A13. -/
theorem test_adc :
    runs { start [(1, 0xFFFFFFFF), (2, 0xFFFFFFFF)] [] with psr := 0x8#32 } 0xB821
      (fun t => t.reg 1 == 0xFFFFFFFF#32 && t.psr == 0x9#32) := by decide +kernel

/-- Vector A20. -/
theorem test_subReg :
    runs (start [(1, 0x5), (2, 0x5)] []) 0x2621 (fun t => t.reg 1 == 0x0#32 && t.psr == 0x2#32) := by decide +kernel

/-- Vector A24. -/
theorem test_subImm :
    runs (start [(1, 0x3F)] []) 0x67F1 (fun t => t.reg 1 == 0x0#32 && t.psr == 0x2#32) := by decide +kernel

/-- Vector A47. -/
theorem test_subSp :
    runs { start [] [] with psr := 0xF#32 } 0x8401 (fun t => t.sp == 0xFFC#32 && t.psr == 0xF#32) := by decide +kernel

/-- Vector A28. -/
theorem test_sbc :
    runs { start [(1, 0x0), (2, 0xFFFFFFFF)] [] with psr := 0x8#32 } 0xBC21
      (fun t => t.reg 1 == 0x0#32 && t.psr == 0xA#32) := by decide +kernel

/-- Vector A36. -/
theorem test_cmpReg :
    runs (start [(1, 0x80000000), (2, 0x1)] []) 0x2A21
      (fun t => t.reg 1 == 0x80000000#32 && t.psr == 0x4#32) := by decide +kernel

/-- Vector A40. -/
theorem test_cmpImm :
    runs (start [(1, 0xFFFFFFFF)] []) 0x6BF1
      (fun t => t.reg 1 == 0xFFFFFFFF#32 && t.psr == 0x2#32) := by decide +kernel

/-- Vector M3. -/
theorem test_mltH :
    runs { start [(1, 0x1234FFFF), (2, 0x2)] [] with psr := 0xF#32, ahr := 0x55555555#32, alr := 0xAAAAAAAA#32 } 0xA221
      (fun t => t.ahr == 0x55555555#32 && t.alr == 0xFFFFFFFE#32 && t.psr == 0xF#32 && t.reg 1 == 0x1234FFFF#32) := by decide +kernel

/-- Vector M6. -/
theorem test_mltuH :
    runs { start [(1, 0xFFFF), (2, 0xFFFF)] [] with psr := 0xF#32, ahr := 0x55555555#32, alr := 0xAAAAAAAA#32 } 0xA621
      (fun t => t.ahr == 0x55555555#32 && t.alr == 0xFFFE0001#32 && t.psr == 0xF#32 && t.reg 1 == 0xFFFF#32) := by decide +kernel

/-- Vector M12. -/
theorem test_mltW :
    runs { start [(1, 0x7FFFFFFF), (2, 0x7FFFFFFF)] [] with psr := 0xF#32, ahr := 0x55555555#32, alr := 0xAAAAAAAA#32 } 0xAA21
      (fun t => t.ahr == 0x3FFFFFFF#32 && t.alr == 0x1#32 && t.psr == 0xF#32 && t.reg 1 == 0x7FFFFFFF#32) := by decide +kernel

/-- Vector M15. -/
theorem test_mltuW :
    runs { start [(1, 0xFFFFFFFF), (2, 0xFFFFFFFF)] [] with psr := 0xF#32, ahr := 0x55555555#32, alr := 0xAAAAAAAA#32 } 0xAE21
      (fun t => t.ahr == 0xFFFFFFFE#32 && t.alr == 0x1#32 && t.psr == 0xF#32 && t.reg 1 == 0xFFFFFFFF#32) := by decide +kernel

/-- Vector M46. -/
theorem test_div1 :
    runs { start [(1, 0x5)] [] with psr := 0x40#32, ahr := 0xFFFFFFFF#32, alr := 0xFFFFFFF8#32 } 0x9310
      (fun t => t.ahr == 0xFFFFFFFF#32 && t.alr == 0xFFFFFFF0#32) := by decide +kernel

/-- Vector M61. -/
theorem test_mac :
    runs { start [(0, 0x2), (1, 0x2000), (2, 0x2101)] [] with ahr := 0x0#32, alr := 0x0#32, psr := 0x10#32 } 0xB200
      (fun t => t.reg 0 == 0x2#32 && t.reg 1 == 0x2000#32 && t.reg 2 == 0x2101#32 && t.ahr == 0x0#32) := by decide +kernel

/-- Vector S1. -/
theorem test_srlImm :
    runs { start [(1, 0x81010101)] [] with psr := 0xC#32 } 0x8841
      (fun t => t.reg 1 == 0x8101010#32 && t.psr == 0xC#32) := by decide +kernel

/-- Vector S6. -/
theorem test_srlReg :
    runs { start [(1, 0x12345678), (0, 0xFFFFFF17)] [] with psr := 0xC#32 } 0x8901
      (fun t => t.reg 1 == 0x2468AC#32 && t.psr == 0xC#32) := by decide +kernel

/-- Vector S8. -/
theorem test_sllImm :
    runs { start [(1, 0x81010101)] [] with psr := 0xC#32 } 0x8C41
      (fun t => t.reg 1 == 0x10101010#32 && t.psr == 0xC#32) := by decide +kernel

/-- Vector S13. -/
theorem test_sllReg :
    runs { start [(1, 0x12345678), (0, 0xFFFFFF17)] [] with psr := 0xC#32 } 0x8D01
      (fun t => t.reg 1 == 0x1A2B3C00#32 && t.psr == 0xC#32) := by decide +kernel

/-- Vector S15. -/
theorem test_sraImm :
    runs { start [(1, 0x81010101)] [] with psr := 0xC#32 } 0x9041
      (fun t => t.reg 1 == 0xF8101010#32 && t.psr == 0xD#32) := by decide +kernel

/-- Vector S20. -/
theorem test_sraReg :
    runs { start [(1, 0x12345678), (0, 0xFFFFFF17)] [] with psr := 0xC#32 } 0x9101
      (fun t => t.reg 1 == 0x2468AC#32 && t.psr == 0xC#32) := by decide +kernel

/-- Vector S22. -/
theorem test_slaImm :
    runs { start [(1, 0x81010101)] [] with psr := 0xC#32 } 0x9441
      (fun t => t.reg 1 == 0x10101010#32 && t.psr == 0xC#32) := by decide +kernel

/-- Vector S27. -/
theorem test_slaReg :
    runs { start [(1, 0x12345678), (0, 0xFFFFFF17)] [] with psr := 0xC#32 } 0x9501
      (fun t => t.reg 1 == 0x1A2B3C00#32 && t.psr == 0xC#32) := by decide +kernel

/-- Vector S29. -/
theorem test_rrImm :
    runs { start [(1, 0x81010101)] [] with psr := 0xC#32 } 0x9841
      (fun t => t.reg 1 == 0x18101010#32 && t.psr == 0xC#32) := by decide +kernel

/-- Vector S34. -/
theorem test_rrReg :
    runs { start [(1, 0x12345678), (0, 0xFFFFFF17)] [] with psr := 0xC#32 } 0x9901
      (fun t => t.reg 1 == 0xF02468AC#32 && t.psr == 0xD#32) := by decide +kernel

/-- Vector S36. -/
theorem test_rlImm :
    runs { start [(1, 0x81010101)] [] with psr := 0xC#32 } 0x9C41
      (fun t => t.reg 1 == 0x10101018#32 && t.psr == 0xC#32) := by decide +kernel

/-- Vector S41. -/
theorem test_rlReg :
    runs { start [(1, 0x12345678), (0, 0xFFFFFF17)] [] with psr := 0xC#32 } 0x9D01
      (fun t => t.reg 1 == 0x1A2B3C09#32 && t.psr == 0xC#32) := by decide +kernel

/-- Vector B2. -/
theorem test_btst :
    runs { start [(1, 0x2000)] [(0x2000, 1, 0xA5)] with psr := 0xD#32 } 0xA811
      (fun t => t.read8 1 0x2000#32 == 0xA5#8 && t.psr == 0xF#32) := by decide +kernel

/-- Vector B5. -/
theorem test_bclr :
    runs { start [(1, 0x2000)] [(0x2000, 1, 0xA5)] with psr := 0xD#32 } 0xAC10
      (fun t => t.read8 1 0x2000#32 == 0xA4#8 && t.psr == 0xD#32) := by decide +kernel

/-- Vector B8. -/
theorem test_bset :
    runs { start [(1, 0x2000)] [(0x2000, 1, 0xA5)] with psr := 0xD#32 } 0xB011
      (fun t => t.read8 1 0x2000#32 == 0xA7#8 && t.psr == 0xD#32) := by decide +kernel

/-- Vector B11. -/
theorem test_bnot :
    runs { start [(1, 0x2000)] [(0x2000, 1, 0xA5)] with psr := 0xD#32 } 0xB410
      (fun t => t.read8 1 0x2000#32 == 0xA4#8 && t.psr == 0xD#32) := by decide +kernel

/-- Vector N1. -/
theorem test_pushn :
    runs { start [(0, 0x11111111), (1, 0x22222222), (2, 0x33333333), (3, 0x44444444)] [] with psr := 0xF#32 } 0x0203
      (fun t => t.read32 1 0xFFC#32 == 0x44444444#32 && t.read32 1 0xFF8#32 == 0x33333333#32 && t.read32 1 0xFF4#32 == 0x22222222#32 && t.read32 1 0xFF0#32 == 0x11111111#32) := by decide +kernel

/-- Vector N2. -/
theorem test_popn :
    runs { start [] [(0xFF0, 4, 0xA0), (0xFF4, 4, 0xA1), (0xFF8, 4, 0xA2), (0xFFC, 4, 0xA3), (0x1000, 4, 0xA4)] with sp := 0xFF0#32, psr := 0xF#32 } 0x0243
      (fun t => t.reg 0 == 0xA0#32 && t.reg 1 == 0xA1#32 && t.reg 2 == 0xA2#32 && t.reg 3 == 0xA3#32) := by decide +kernel

/-- Vector J20. -/
theorem test_call :
    runs { start [] [] with psr := 0x2#32 } 0x1C10
      (fun t => t.pc == 0x80120#32 && t.sp == 0xFFC#32 && t.read32 1 0xFFC#32 == 0x80102#32) := by decide +kernel

/-- Vector J1. -/
theorem test_jp :
    runs { start [] [] with psr := 0x2#32 } 0x1E7F (fun t => t.pc == 0x801FE#32) := by decide +kernel

/-- Vector J23. -/
theorem test_callReg :
    runs { start [(0, 0x81235)] [] with psr := 0x2#32 } 0x0600
      (fun t => t.pc == 0x81234#32 && t.sp == 0xFFC#32 && t.read32 1 0xFFC#32 == 0x80102#32) := by decide +kernel

/-- Vector J28. -/
theorem test_ret :
    runs { start [] [(0xFFC, 4, 0x80103)] with psr := 0x2#32, sp := 0xFFC#32 } 0x0640
      (fun t => t.pc == 0x80102#32 && t.sp == 0x1000#32) := by decide +kernel

/-- Vector J25. -/
theorem test_jpReg :
    runs { start [(5, 0xF0080001)] [] with psr := 0x2#32 } 0x0685
      (fun t => t.pc == 0xF0080000#32 && t.reg 5 == 0xF0080001#32) := by decide +kernel

/-- Vector E22. -/
theorem test_brk :
    runs { start [(0, 0x7)] [] with dcr := 1#8 } 0x0400
      (fun t => t.pc == 0x80102#32 && t.reg 0 == 0x7#32 && t.read32 1 0x8#32 == 0x0#32) := by decide +kernel

/-- Vector E3. -/
theorem test_int :
    runs { start [] [(0x80038, 4, 0x80920)] with psr := 0x5DB#32 } 0x0482
      (fun t => t.pc == 0x80920#32 && t.sp == 0xFF8#32 && t.read32 1 0xFFC#32 == 0x80102#32 && t.read32 1 0xFF8#32 == 0x5DB#32) := by decide +kernel

/-- Vector E6. -/
theorem test_reti :
    runs { start [] [(0xFF8, 4, 0x312), (0xFFC, 4, 0x80104)] with sp := 0xFF8#32 } 0x04C0
      (fun t => t.pc == 0x80104#32 && t.sp == 0x1000#32 && t.psr == 0x312#32) := by decide +kernel

/-- Vector X12. -/
theorem test_scan0 :
    runs { start [(1, 0xBF000000)] [] with psr := 0xDD#32 } 0x8A10
      (fun t => t.reg 0 == 0x1#32 && t.psr == 0xD0#32) := by decide +kernel

/-- Vector X19. -/
theorem test_scan1 :
    runs { start [(1, 0x40FFFFFF)] [] with psr := 0xDD#32 } 0x8E10
      (fun t => t.reg 0 == 0x1#32 && t.psr == 0xD0#32) := by decide +kernel

/-- Vector X24. -/
theorem test_swap :
    runs { start [(1, 0x87654321)] [] with psr := 0xDD#32 } 0x9210
      (fun t => t.reg 0 == 0x21436587#32 && t.psr == 0xDD#32) := by decide +kernel

/-- Vector X27. -/
theorem test_mirror :
    runs { start [(1, 0x88442211)] [] with psr := 0xDD#32 } 0x9610
      (fun t => t.reg 0 == 0x11224488#32 && t.psr == 0xDD#32) := by decide +kernel

/-- Vector M58 after its first repeat: the sum leaves the range, MO is set, PC stays. And R50, R406 (1): a repeat keeps a
pending `ext`, so an acceptable interrupt waits, and the step with counter 0 ends it. -/
theorem test_mac_repeat :
    runs { start [(0, 1), (1, 0x2006), (2, 0x2106)] [(0x2006, 2, 0xFFFF), (0x2106, 2, 0x8000)]
        with ahr := 0x7FFFFFFF#32, alr := 0xFFFFFFFF#32 } 0xB200
      (fun t => t.reg 0 == 0#32 && t.reg 1 == 0x2008#32 && t.ahr == 0x80000000#32 && t.alr == 0x7FFF#32 &&
        t.psr == 0x80#32 && t.pc == 0x80100#32) ∧
    (let s := { start [(0, 1), (1, 0x2000), (2, 0x2100)] [] with
        psr := 0x10#32, ext := .one 5#13, inputs := [{ Input.quiet with irq := some ⟨4#4, 5⟩ }] }
     runs s 0xB200 (fun t => t.reg 0 == 0#32 && t.pc == 0x80100#32 && t.ext == .one 5#13 && t.sp == 0x1000#32)) ∧
    runs { start [] [] with ext := .one 5#13 } 0xB200 (fun t => t.pc == 0x80102#32 && t.ext == .none) := by
  decide +kernel

/-- Vector M20 after `div0s`. -/
theorem test_div0s :
    runs { start [(1, 2)] [] with alr := 0xFFFFFFF9#32, psr := 0xE#32 } 0x8B10
      (fun t => t.ahr == 0xFFFFFFFF#32 && t.psr == 0x4E#32) := by decide +kernel

/-- Vector M51 after its first step: the zero division is raised. -/
theorem test_div0u :
    runs { start [(1, 0)] [] with alr := 9#32, ahr := 5#32, psr := 0x10#32 } 0x8F10
      (fun t => t.ahr == 0#32 && t.zdiv == .raised && t.pc == 0x80102#32) := by decide +kernel

/-- Vector M25 after its 34 first steps, then `div2s`: the remainder is minus the divisor. -/
theorem test_div2s :
    runs { start [(1, 5)] [] with ahr := 0xFFFFFFFB#32, alr := 1#32, psr := 0x4E#32 } 0x9710
      (fun t => t.ahr == 0#32 && t.alr == 2#32) := by decide +kernel

/-- Vector M21 after 35 steps, then `div3s`. -/
theorem test_div3s :
    runs { start [] [] with ahr := 1#32, alr := 3#32, psr := 0xF#32 } 0x9B00
      (fun t => t.ahr == 1#32 && t.alr == 0xFFFFFFFD#32) := by decide +kernel

/-- For which of the 16 flag values a plain conditional branch with displacement 0x20 is taken. -/
def takenFor (code : Nat) : List Nat :=
  (List.range 16).filter fun f =>
    runs { start [] [] with psr := BitVec.ofNat 32 f } code (fun t => t.pc == 0x80120#32)

/-- The condition table of 96_test_vectors_part2.md 2.8. -/
theorem test_jrgt : takenFor 0x0810 = [0, 5, 8, 13] := by decide +kernel

/-- The condition table of 96_test_vectors_part2.md 2.8. -/
theorem test_jrge : takenFor 0x0A10 = [0, 2, 5, 7, 8, 10, 13, 15] := by decide +kernel

/-- The condition table of 96_test_vectors_part2.md 2.8. -/
theorem test_jrlt : takenFor 0x0C10 = [1, 3, 4, 6, 9, 11, 12, 14] := by decide +kernel

/-- The condition table of 96_test_vectors_part2.md 2.8. -/
theorem test_jrle : takenFor 0x0E10 = [1, 2, 3, 4, 6, 7, 9, 10, 11, 12, 14, 15] := by decide +kernel

/-- The condition table of 96_test_vectors_part2.md 2.8. -/
theorem test_jrugt : takenFor 0x1010 = [0, 1, 4, 5] := by decide +kernel

/-- The condition table of 96_test_vectors_part2.md 2.8. -/
theorem test_jruge : takenFor 0x1210 = [0, 1, 2, 3, 4, 5, 6, 7] := by decide +kernel

/-- The condition table of 96_test_vectors_part2.md 2.8. -/
theorem test_jrult : takenFor 0x1410 = [8, 9, 10, 11, 12, 13, 14, 15] := by decide +kernel

/-- The condition table of 96_test_vectors_part2.md 2.8. -/
theorem test_jrule : takenFor 0x1610 = [2, 3, 6, 7, 8, 9, 10, 11, 12, 13, 14, 15] := by decide +kernel

/-- The condition table of 96_test_vectors_part2.md 2.8. -/
theorem test_jreq : takenFor 0x1810 = [2, 3, 6, 7, 10, 11, 14, 15] := by decide +kernel

/-- The condition table of 96_test_vectors_part2.md 2.8. -/
theorem test_jrne : takenFor 0x1A10 = [0, 1, 4, 5, 8, 9, 12, 13] := by decide +kernel

/-- One step of a delayed branch: PC advances and DELAY holds the address. -/
def delays (s : State) (code : Nat) (target : Word) : Bool :=
  runs s code fun t => t.pc == 0x80102#32 && t.delay == some target

/-- The same table with `.d`: taken to 0x0080120, not taken to the address after the delayed instruction (R325). -/
theorem test_jrgtDelayed :
    delays { start [] [] with psr := 0xD#32 } 0x0910 0x80120#32 ∧
    delays { start [] [] with psr := 0xF#32 } 0x0910 0x80104#32 := by decide +kernel

/-- The same table with `.d`: taken to 0x0080120, not taken to the address after the delayed instruction (R325). -/
theorem test_jrgeDelayed :
    delays { start [] [] with psr := 0xF#32 } 0x0B10 0x80120#32 ∧
    delays { start [] [] with psr := 0xE#32 } 0x0B10 0x80104#32 := by decide +kernel

/-- The same table with `.d`: taken to 0x0080120, not taken to the address after the delayed instruction (R325). -/
theorem test_jrltDelayed :
    delays { start [] [] with psr := 0xE#32 } 0x0D10 0x80120#32 ∧
    delays { start [] [] with psr := 0xF#32 } 0x0D10 0x80104#32 := by decide +kernel

/-- The same table with `.d`: taken to 0x0080120, not taken to the address after the delayed instruction (R325). -/
theorem test_jrleDelayed :
    delays { start [] [] with psr := 0xF#32 } 0x0F10 0x80120#32 ∧
    delays { start [] [] with psr := 0xD#32 } 0x0F10 0x80104#32 := by decide +kernel

/-- The same table with `.d`: taken to 0x0080120, not taken to the address after the delayed instruction (R325). -/
theorem test_jrugtDelayed :
    delays { start [] [] with psr := 0x5#32 } 0x1110 0x80120#32 ∧
    delays { start [] [] with psr := 0xF#32 } 0x1110 0x80104#32 := by decide +kernel

/-- The same table with `.d`: taken to 0x0080120, not taken to the address after the delayed instruction (R325). -/
theorem test_jrugeDelayed :
    delays { start [] [] with psr := 0x7#32 } 0x1310 0x80120#32 ∧
    delays { start [] [] with psr := 0xF#32 } 0x1310 0x80104#32 := by decide +kernel

/-- The same table with `.d`: taken to 0x0080120, not taken to the address after the delayed instruction (R325). -/
theorem test_jrultDelayed :
    delays { start [] [] with psr := 0xF#32 } 0x1510 0x80120#32 ∧
    delays { start [] [] with psr := 0x7#32 } 0x1510 0x80104#32 := by decide +kernel

/-- The same table with `.d`: taken to 0x0080120, not taken to the address after the delayed instruction (R325). -/
theorem test_jruleDelayed :
    delays { start [] [] with psr := 0xF#32 } 0x1710 0x80120#32 ∧
    delays { start [] [] with psr := 0x5#32 } 0x1710 0x80104#32 := by decide +kernel

/-- The same table with `.d`: taken to 0x0080120, not taken to the address after the delayed instruction (R325). -/
theorem test_jreqDelayed :
    delays { start [] [] with psr := 0xF#32 } 0x1910 0x80120#32 ∧
    delays { start [] [] with psr := 0xD#32 } 0x1910 0x80104#32 := by decide +kernel

/-- The same table with `.d`: taken to 0x0080120, not taken to the address after the delayed instruction (R325). -/
theorem test_jrneDelayed :
    delays { start [] [] with psr := 0xD#32 } 0x1B10 0x80120#32 ∧
    delays { start [] [] with psr := 0xF#32 } 0x1B10 0x80104#32 := by decide +kernel

/-- Vector J16 after its first step. -/
theorem test_jpDelayed : delays (start [] []) 0x1F10 0x80120#32 := by decide +kernel

/-- Vector J26 after its first step. -/
theorem test_jpRegDelayed : delays (start [(5, 0x80200)] []) 0x0785 0x80200#32 := by decide +kernel

/-- Vector J21 after its first step. -/
theorem test_callDelayed :
    delays (start [] []) 0x1D10 0x80120#32 ∧
    runs (start [] []) 0x1D10 (fun t => t.sp == 0xFFC#32 && t.read32 1 0xFFC#32 == 0x80104#32) := by decide +kernel

/-- Vector J24 after its first step. -/
theorem test_callRegDelayed :
    delays (start [(0, 0x81234)] []) 0x0700 0x81234#32 ∧
    runs (start [(0, 0x81234)] []) 0x0700 (fun t => t.read32 1 0xFFC#32 == 0x80104#32) := by decide +kernel

/-- Vector J29 after its first step. -/
theorem test_retDelayed :
    delays { start [] [(0xFFC, 4, 0x80200)] with sp := 0xFFC#32 } 0x0740 0x80200#32 := by decide +kernel

/-- The second step of vector J16: the delayed instruction runs and PC goes to the target. -/
theorem test_delayed_instruction :
    runs { start [] [] with delay := some 0x80120#32 } 0x6010
      (fun t => t.pc == 0x80120#32 && t.reg 0 == 1#32 && t.delay == none) := by decide +kernel

/-- Vector J12 after its two `ext`. -/
theorem test_jp_extended :
    runs { start [] [] with pc := 0x80104#32, ext := .two 0x1FF8#13 0x1FFF#13 } 0x1EFF
      (fun t => t.pc == 0x80102#32) := by decide +kernel

/-- Vector E21, first step. -/
theorem test_brk_taken :
    runs { start [(0, 0x1234)] [(0, 4, 0x1001)] with psr := 0x10#32 } 0x0400
      (fun t => t.pc == 0x1000#32 && t.read32 1 0x8#32 == 0x80102#32 && t.read32 1 0xC#32 == 0x1234#32 &&
        t.dcr == 1#8 && t.dsr == 0x80#8 && t.sp == 0x1000#32) := by decide +kernel

/-- Vector E21, third step: `retd`. -/
theorem test_retd :
    runs { start [(0, 5)] [(8, 4, 0x80102), (0xC, 4, 0x1234)] with dcr := 1#8, psr := 0x10#32 } 0x0440
      (fun t => t.pc == 0x80102#32 && t.reg 0 == 0x1234#32 && t.dcr == 0#8 && t.retdShadow) := by decide +kernel

/-- R456 with decision D30: the second read of `retd` in user mode, at DEBUG_BASE + 8, matches. -/
theorem test_retd_user :
    runs { start [] [(8, 4, 0x80102)] with dcr := 0x30#8, dbar := 8#32 } 0x0440
      (fun t => t.pc == 0x80102#32 && t.dbrk == some ⟨true, false, none⟩ && t.dcr == 0x30#8) := by decide +kernel

/-- Vector X1. -/
theorem test_nop :
    runs { start [] [] with psr := 0xFDF#32 } 0x0000 (fun t => t.pc == 0x80102#32 && t.psr == 0xFDF#32) := by
  decide +kernel

/-- Vector X2, first step. -/
theorem test_halt : runs (start [] []) 0x0080 (fun t => t.pc == 0x80102#32 && t.run == .halted) := by decide +kernel

/-- Vector X4, first step. -/
theorem test_slp :
    runs { start [] [] with psr := 0x310#32, inputs := [{ Input.quiet with irq := some ⟨3#4, 1⟩ }] } 0x0040
      (fun t => t.pc == 0x80102#32 && t.run == .sleeping && t.sp == 0x1000#32) := by decide +kernel

/-- Vector X7: the middle one of three `ext` is dropped. -/
theorem test_ext :
    runs { start [] [] with ext := .two 0x1000#13 1#13 } 0xDFFF (fun t => t.ext == .two 0x1000#13 0x1FFF#13) := by
  decide +kernel

/-- Vector X7, last step. -/
theorem test_addImm_extended :
    runs { start [(1, 1)] [] with ext := .two 0x1000#13 0x1FFF#13 } 0x63F1
      (fun t => t.reg 1 == 0x80080000#32 && t.psr == 1#32 && t.ext == .none) := by decide +kernel

/-- Vector E9: an interrupt is the whole step. -/
theorem test_interrupt :
    runs { start [] [(0x80054, 4, 0x80800)] with
        pc := 0x80210#32, sp := 0x2000#32, psr := 0x213#32, inputs := [{ Input.quiet with irq := some ⟨4#4, 5⟩ }] } 0x6010
      (fun t => t.pc == 0x80800#32 && t.psr == 0x403#32 && t.read32 1 0x1FFC#32 == 0x80210#32 &&
        t.read32 1 0x1FF8#32 == 0x213#32 && t.reg 0 == 0#32) := by decide +kernel

/-- Vector E20, second step: the address error of an extended load. -/
theorem test_address_error :
    runs { start [(1, 0x1000), (0, 0x99)] [(0x80018, 4, 0x80400)] with
        pc := 0x80102#32, sp := 0x2000#32, psr := 0x10#32, ext := .one 1#13 } 0x3010
      (fun t => t.pc == 0x80400#32 && t.psr == 0#32 && t.reg 0 == 0x99#32 && t.read32 1 0x1FFC#32 == 0x80102#32 &&
        t.ext == .none) := by decide +kernel

/-- Vector Z3: a hot start reads the vector at TTBR. -/
theorem test_hot_start :
    runs { start [] [(0x100400, 4, 0x100500)] with
        ttbr := 0x100400#32, inputs := [{ Input.quiet with reset := some .hot }] } 0x0000
      (fun t => t.pc == 0x100500#32 && t.psr == 0#32 && t.ttbr == 0x100400#32) := by decide +kernel

/-- Rule R250 without the multiplier (95_test_vectors.md 2.4). -/
theorem test_without_multiplier :
    runs { start [(4, 5), (5, 0x2001), (6, 0x2001)] [] with cfg := { Config.default with hasMultiplier := false } } 0xB240
      (fun t => t.pc == 0x80102#32 && t.reg 4 == 5#32 && t.sp == 0x1000#32) := by decide +kernel

/-! ### A state that meets the hypotheses of each statement -/

/-- A running user-mode core with even PC and aligned SP in plain memory, nothing pending, memory all 0 (`nop`). -/
def calm : State := { State.reset with pc := 0x200#32, sp := 0x1000#32 }

/-- `calm` with the general registers `regs` and the next input `i`. -/
def calmWith (regs : List (Reg × Word)) (i : Input) : State :=
  { calm with regs := regs.foldl (fun rs p => rs.set p.1 p.2) calm.regs, inputs := [i] }

/-- An input with an interrupt request. -/
def request (level : BitVec 4) (n : Nat) : Input := { Input.quiet with irq := some ⟨level, n⟩ }

/-- An input with an edge on #NMI. -/
def edge : Input := { Input.quiet with nmiEdge := true }

/-- The invariant, from its parts that can be evaluated; no delayed branch is pending. -/
theorem inv_of {s : State} (hd : s.delay = none) (hr : s.run = .running)
    (h : s.pc &&& 1#32 = 0#32 ∧ s.sp &&& 3#32 = 0#32 ∧ s.psr &&& ~~~0x00000FDF#32 = 0#32 ∧
      s.ttbr &&& ~~~0x0FFFFC00#32 = 0#32 ∧ s.ibar0 &&& ~~~0x0FFFFFFE#32 = 0#32 ∧
      s.ibar1 &&& ~~~0x0FFFFFFE#32 = 0#32 ∧ s.ibar2 &&& ~~~0x0FFFFFFE#32 = 0#32 ∧
      s.dbar &&& ~~~0x0FFFFFFF#32 = 0#32 ∧ s.dcr &&& 0x80#8 = 0#8 ∧ s.dcr2 &&& 0xC0#8 = 0#8 ∧ s.dsr2 &&& 0xFE#8 = 0#8)
    (hm : s.mem.wf = true) (hc : s.debugCtl = .ok) (hc2 : s.dcr2 = 0#8) (hs : s.storesNow = []) : s.Inv := by
  obtain ⟨h1, h2, h3, h4, h5, h6, h7, h8, h9, h10, h11⟩ := h
  exact ⟨h1, h2, h3, h4, h5, h6, h7, h8, h9, h10, h11, by simp [hd], by simp [hd], fun h => absurd hr h, hm,
    fun _ => .inr (by simp [hc2]), by simp [hc], hs⟩

theorem calm_inv : calm.Inv := inv_of rfl rfl (by decide) rfl rfl rfl rfl

theorem calmWith_inv (regs : List (Reg × Word)) (i : Input) : (calmWith regs i).Inv :=
  let h := calm_inv
  ⟨h.pcEven, h.spAligned, h.psrBits, h.ttbrBits, h.ibar0Bits, h.ibar1Bits, h.ibar2Bits, h.dbarBits, h.dcrBits,
    h.dcr2Bits, h.dsr2Bits, h.delayEven, h.delayNotExtended, h.poweredDown, h.memory, h.debugControl, h.notTripped,
    h.storesSettled⟩

theorem calm_ordinary (s : State) (h : s.inputs = [] := by rfl) : OrdinaryInput s := by
  constructor <;> simp [State.nextInput, h, Input.quiet, impossibleRequest]

theorem witness_EncodeOfDecode :
    decode 0xA15A#16 = .ok (.ldBReg 10 5) ∧ decode 0xDFFF#16 = .ok (.ext 0x1FFF#13) := by decide +kernel

/-- Each kind of refused code, with the d bit of `nop` and the last reserved row among them. -/
theorem witness_UnassignedCodesRefused :
    decode 0xE000#16 = .error .reservedClass ∧ decode 0x0100#16 = .error .fixedBitSet ∧
    decode 0xBFFF#16 = .error .reservedOperation ∧ decode 0xA4F0#16 = .error .reservedSpecialRegister := by decide +kernel

theorem witness_StepKeepsInvariant : calm.Inv ∧ ∃ t, step calm = .next t :=
  ⟨calm_inv, _, rfl⟩

theorem witness_ResetStep :
    ∀ kind ∈ [ResetKind.cold, ResetKind.hot],
      (calmWith [] { Input.quiet with reset := some kind }).nextInput.reset = some kind ∧
      impossibleRequest calm.cfg (calmWith [] { Input.quiet with reset := some kind }).nextInput.irq = false := by
  decide

/-- A state with no delayed branch pending, about to execute `nop`. -/
theorem witness_StepRunsDecodedInstruction :
    OrdinaryInput calm ∧ calm.atBoundary.boundary calm.nextInput.irq = .passed calm.atBoundary ∧
    calm.atBoundary.run = .running ∧
    calm.atBoundary.readByte 0 (calm.atBoundary.byteAddress calm.atBoundary.pc 0) = (encode .nop).extractLsb' 0 8 ∧
    calm.atBoundary.readByte 0 (calm.atBoundary.byteAddress calm.atBoundary.pc 1) = (encode .nop).extractLsb' 8 8 ∧
    calm.atBoundary.codeJustStored = false ∧ (calm.atBoundary.touch .half calm.atBoundary.pc).debugCtl ≠ .tripped ∧
    (calm.atBoundary.delay.isSome → Instr.isDelaySlotForm .nop = true) ∧
    ∃ v, exec .nop calm.atBoundary = .next v ∧ v.debugCtl ≠ .tripped :=
  ⟨calm_ordinary _, by decide +kernel, rfl, by decide +kernel, by decide +kernel, by decide +kernel, by decide +kernel,
    by decide, _, rfl, by decide⟩

/-- A state with a delayed branch pending, about to execute `add %r0,1`. -/
def inSlot : State := { calm.withFetchWord 16 0x6010 with delay := some 0x300#32 }

theorem witness_StepRunsDecodedInstruction_delayed :
    OrdinaryInput inSlot ∧ inSlot.atBoundary.boundary inSlot.nextInput.irq = .passed inSlot.atBoundary ∧
    inSlot.atBoundary.run = .running ∧
    inSlot.atBoundary.readByte 0 (inSlot.atBoundary.byteAddress inSlot.atBoundary.pc 0) =
      (encode (.addImm 0 1#6)).extractLsb' 0 8 ∧
    inSlot.atBoundary.readByte 0 (inSlot.atBoundary.byteAddress inSlot.atBoundary.pc 1) =
      (encode (.addImm 0 1#6)).extractLsb' 8 8 ∧
    inSlot.atBoundary.codeJustStored = false ∧
    (inSlot.atBoundary.touch .half inSlot.atBoundary.pc).debugCtl ≠ .tripped ∧
    (inSlot.atBoundary.delay.isSome → Instr.isDelaySlotForm (.addImm 0 1#6) = true) ∧
    ∃ v, exec (.addImm 0 1#6) inSlot.atBoundary = .next v ∧ v.debugCtl ≠ .tripped :=
  ⟨calm_ordinary _, by decide +kernel, by decide +kernel, by decide +kernel, by decide +kernel, by decide +kernel,
    by decide +kernel, by decide, _, rfl, by decide +kernel⟩

theorem witness_BoundaryWithoutTrapPasses :
    { calm with ext := .one 0#13 }.ext ≠ .none ∧ { calm with delay := some 0#32 }.delay ≠ none ∧
    { calm with retdShadow := true }.retdShadow = true ∧
    calm.zdiv = .none ∧ DebugQuiet calm ∧ calm.nmiPending = false ∧ calm.acceptable (some ⟨15#4, 0⟩) = none :=
  ⟨by decide, by decide, rfl, rfl, ⟨rfl, rfl, rfl⟩, rfl, by decide⟩

theorem witness_PoweredDownWaits :
    ∀ r ∈ [RunState.halted, RunState.sleeping],
      OrdinaryInput { calm with run := r } ∧ { calm with run := r }.run ≠ .running ∧ calm.zdiv = .none ∧
      { calm with run := r }.atBoundary.acceptable { calm with run := r }.nextInput.irq = none ∧
      (calm.nmiArmed && (calm.nmiPending || calm.nextInput.nmiEdge) && calm.userMode) = false := by
  intro r hr
  refine ⟨calm_ordinary _, ?_, rfl, by simp [State.atBoundary, State.nextInput, calm, State.reset, State.begun, State.latch,
    State.acceptable, Input.quiet], by decide⟩
  rintro rfl
  revert hr
  decide

/-- The other side of its disjunction: debugging mode with an acceptable request. -/
theorem witness_PoweredDownWaits_debug :
    { calmWith [] (request 15#4 0) with run := .halted, dcr := 1#8, psr := 0x10#32 }.userMode = false ∧
    { calmWith [] (request 15#4 0) with run := .halted, dcr := 1#8, psr := 0x10#32 }.atBoundary.acceptable
      (some ⟨15#4, 0⟩) ≠ none := by decide +kernel

/-- A step in which the master writes one byte of external RAM twice. -/
theorem witness_ReleasedBusStopsTheCore :
    let s := calmWith [] { Input.quiet with busreq := true, busWrites := [(0x100000, 7#8), (0x100000, 9#8)] }
    s.nextInput.reset = none ∧ s.nextInput.busreq = true ∧ impossibleRequest s.cfg s.nextInput.irq = false ∧
    externalFirst ≤ 0x100000 ∧ kindAt s.cfg 0x100000 = .ram ∧ s.lastBusWrite 0x100000 = some 9#8 ∧
    s.lastBusWrite 0x100001 = none ∧ 0x1000 < externalFirst := by decide +kernel

/-- The frame of a trap lies in plain memory. -/
theorem calm_stackReady (s : State) (hc : s.cfg = Config.default) (hsp : s.sp = 0x1000#32) (ht : s.ttbr = 0x80000#32)
    (n : Nat) (hn : n < 1024) : s.stackReady n := by
  have hb : ∀ k, s.byteAddress (s.sp - 8#32) k = (0xFF8#32 + BitVec.ofNat 32 k).toNat % 2 ^ 28 := by
    intro k; simp [State.byteAddress, busAddress, hc, hsp, Config.default]
  have hl : s.addresses (s.sp - 8#32) 8 = [0xFF8, 0xFF9, 0xFFA, 0xFFB, 0xFFC, 0xFFD, 0xFFE, 0xFFF] := by
    simp [State.addresses, hb, List.range, List.range.loop]
  refine ⟨⟨by rw [hl]; decide, ?_⟩, ?_⟩
  · rw [hl]
    intro a ha
    have : ∀ a ∈ [0xFF8, 0xFF9, 0xFFA, 0xFFB, 0xFFC, 0xFFD, 0xFFE, 0xFFF],
      kindAt Config.default a = .ram ∧ mappedByte? a = none ∧ a < 0x78000 := by decide
    obtain ⟨h1, h2, h3⟩ := this a ha
    exact ⟨by rw [hc]; exact h1, h2, fun h => by have := h.1; simp only [debugRegistersFirst] at this; omega⟩
  · rw [hl]
    intro a ha
    have : a ∉ [0xFF8, 0xFF9, 0xFFA, 0xFFB, 0xFFC, 0xFFD, 0xFFE, 0xFFF] ↔ ¬(0xFF8 ≤ a ∧ a ≤ 0xFFF) := by
      simp only [List.mem_cons, List.not_mem_nil, or_false]; omega
    rw [this]
    simp only [State.addresses, List.mem_map, List.mem_range, State.byteAddress, busAddress, hc, ht, Config.default] at ha
    obtain ⟨k, hk, rfl⟩ := ha
    rw [show min 28 28 = 28 from rfl]
    have : (524288#32 + BitVec.ofNat 32 n + BitVec.ofNat 32 k).toNat = 524288 + n + k := by
      simp only [BitVec.toNat_add, BitVec.toNat_ofNat]; omega
    rw [this]; omega

/-- A user-mode core with IE set and IL = 2, a request of level 3, a late zero division and a data break that is not due;
in HALT and SLEEP single step is set. -/
def interrupted (n : Nat) (r : RunState) : State :=
  { calmWith [] (request 3#4 n) with
    psr := 0x210#32, run := r, dcr := if r = .running then 0#8 else 2#8, dbrk := some ⟨true, false, some 1⟩, zdiv := .late }

/-- No debugging exception is due when nothing is enabled and the pending data break has an instruction to wait. -/
theorem not_debugDue {s : State} (h0 : s.dcr = 0#8) (h2 : s.dcr2 = 0#8)
    (hb : s.dbrk = none ∨ s.dbrk = some ⟨true, false, some 1⟩) : ¬s.debugDue := by
  unfold State.debugDue State.drawnBreak
  rw [h0, h2]
  rcases hb with hb | hb <;> simp [hb]

theorem witness_MaskableInterruptTaken :
    ∀ n ∈ [0, 215], ∀ r ∈ [RunState.running, RunState.halted],
      OrdinaryInput (interrupted n r) ∧ (interrupted n r).nextInput.irq = some ⟨3#4, n⟩ ∧
      (interrupted n r).masked = false ∧ ((interrupted n r).zdiv = .none ∨ (interrupted n r).zdiv = .late) ∧
      ((interrupted n r).run = .running → ¬(interrupted n r).debugDue) ∧ (interrupted n r).userMode = true ∧
      ((interrupted n r).nmiArmed && ((interrupted n r).nmiPending || (interrupted n r).nextInput.nmiEdge)) = false ∧
      (interrupted n r).psr.getLsbD 4 = true ∧
      ((interrupted n r).psr.extractLsb' 8 4 : BitVec 4).toNat < (3#4).toNat ∧ (interrupted n r).debugCtl = .ok ∧
      (interrupted n r).stackReady (64 + 4 * n) := by
  intro n hn r _
  have h216 : n < 216 := by
    simp only [List.mem_cons, List.not_mem_nil, or_false] at hn; omega
  refine ⟨⟨rfl, rfl, ?_⟩, rfl, rfl, .inr rfl, fun hr => not_debugDue (if_pos hr) rfl (.inr rfl), ?_, rfl, ?_, ?_, rfl,
    calm_stackReady _ rfl rfl rfl _ (by omega)⟩
  · show decide (min 216 216 ≤ n) = false
    simp; omega
  · show (!(if r = .running then 0#8 else 2#8 : Byte).getLsbD 0) = true
    cases r <;> decide
  · show (0x210#32).getLsbD 4 = true
    decide
  · show ((0x210#32).extractLsb' 8 4 : BitVec 4).toNat < (3#4).toNat
    decide

/-- IE = 0; a level equal to IL; debugging mode; and an edge before the NMI is armed. -/
theorem witness_IneffectiveRequestsIgnored :
    (calmWith [] (request 15#4 0)).psr.getLsbD 4 = false ∧
    (let s := { calmWith [] (request 3#4 0) with psr := 0x310#32 }
     (3#4).toNat ≤ (s.psr.extractLsb' 8 4 : BitVec 4).toNat) ∧
    { calmWith [] (request 3#4 0) with dcr := 1#8 }.userMode = false ∧
    (∀ level : BitVec 4, (calmWith [] (request level 0)).nextInput.irq = some ⟨level, 0⟩ ∧
      impossibleRequest calm.cfg (some ⟨level, 0⟩) = false) ∧
    (calmWith [] edge).nmiArmed = false ∧ (calmWith [] edge).nextInput.nmiEdge = true :=
  ⟨rfl, by decide, rfl, fun _ => ⟨rfl, rfl⟩, rfl, rfl⟩

/-- An NMI that is pending, with a data break that is not due; one whose edge arrives, with a late zero division; and one
that finds a core in SLEEP with single step set. -/
theorem witness_NmiTaken :
    ∀ s ∈ [{ calmWith [] Input.quiet with nmiArmed := true, nmiPending := true, dbrk := some ⟨true, false, some 1⟩ },
        { calmWith [] edge with nmiArmed := true, psr := 0xF00#32, zdiv := .late },
        { calmWith [] edge with nmiArmed := true, run := .sleeping, dcr := 2#8 }],
      OrdinaryInput s ∧ s.masked = false ∧ (s.zdiv = .none ∨ s.zdiv = .late) ∧ (s.run = .running → ¬s.debugDue) ∧
      s.userMode = true ∧ s.nmiArmed = true ∧ (s.nmiPending = true ∨ s.nextInput.nmiEdge = true) ∧ s.debugCtl = .ok ∧
      s.stackReady 28 := by
  intro s hs
  simp only [List.mem_cons, List.not_mem_nil, or_false] at hs
  obtain rfl | rfl | rfl := hs
  · exact ⟨⟨rfl, rfl, rfl⟩, rfl, .inl rfl, fun _ => not_debugDue rfl rfl (.inr rfl), rfl, rfl, .inl rfl, rfl,
      calm_stackReady _ rfl rfl rfl _ (by decide)⟩
  · exact ⟨⟨rfl, rfl, rfl⟩, rfl, .inr rfl, fun _ => not_debugDue rfl rfl (.inl rfl), rfl, rfl, .inr rfl, rfl,
      calm_stackReady _ rfl rfl rfl _ (by decide)⟩
  · exact ⟨⟨rfl, rfl, rfl⟩, rfl, .inl rfl, fun h => absurd h (by decide), rfl, rfl, .inr rfl, rfl,
      calm_stackReady _ rfl rfl rfl _ (by decide)⟩

/-- A zero division that is due, in user mode and in debugging mode. -/
theorem witness_DueZeroDivisionTaken :
    ∀ d ∈ [0#8, 1#8],
      let s := { calm with zdiv := .due, dcr := d }
      OrdinaryInput s ∧ s.masked = false ∧ s.zdiv = .due ∧ s.debugCtl = .ok ∧ s.stackReady 16 :=
  fun _ _ => ⟨calm_ordinary _, rfl, rfl, rfl, calm_stackReady _ rfl rfl rfl _ (by decide)⟩

theorem witness_RaisedZeroDivisionComes :
    { calm with zdiv := .raised }.masked = false ∧ { calm with zdiv := .raised }.zdiv = .raised := ⟨rfl, rfl⟩

/-- The two words of the debugging exception lie in plain memory. -/
theorem calm_debugReady (s : State) (hc : s.cfg = Config.default) : s.debugReady := by
  have hb : ∀ x k, s.byteAddress x k = (x + BitVec.ofNat 32 k).toNat % 2 ^ 28 := by
    intro x k; simp [State.byteAddress, busAddress, hc, Config.default]
  have hl : s.addresses (Config.debugBase s.cfg + 8#32) 8 = [8, 9, 10, 11, 12, 13, 14, 15] := by
    simp [State.addresses, hb, hc, Config.debugBase, Config.default, List.range, List.range.loop]
  have hv : s.addresses (Config.debugBase s.cfg) 4 = [0, 1, 2, 3] := by
    simp [State.addresses, hb, hc, Config.debugBase, Config.default, List.range, List.range.loop]
  refine ⟨⟨by rw [hl]; decide, ?_⟩, by rw [hl, hv]; decide⟩
  rw [hl]
  intro a ha
  have : ∀ a ∈ [8, 9, 10, 11, 12, 13, 14, 15], kindAt Config.default a = .ram ∧ mappedByte? a = none ∧ a < 0x78000 := by decide
  obtain ⟨h1, h2, h3⟩ := this a ha
  exact ⟨by rw [hc]; exact h1, h2, fun h => by have := h.1; simp only [debugRegistersFirst] at this; omega⟩

/-- Each of the five causes: SE, the three instruction breaks at PC, a data break that is due; the second state has a data
break that is not due beside it. -/
theorem witness_DebuggingExceptionTaken :
    ∀ s ∈ [{ calm with dcr := 0x02#8 }, { calm with dcr := 0x04#8, ibar0 := 0x200#32, dbrk := some ⟨false, true, some 1⟩ },
        { calm with dcr := 0x08#8, ibar1 := 0x200#32 }, { calm with dcr2 := 0x0F#8, ibar2 := 0x200#32 },
        { calm with dbrk := some ⟨true, false, some 0⟩ }],
      OrdinaryInput s ∧ s.masked = false ∧ (s.zdiv = .none ∨ s.zdiv = .late) ∧ s.run = .running ∧ s.userMode = true ∧
      s.debugCtl = .ok ∧ s.debugReady ∧
      (s.dcr.getLsbD 1 = true ∨ s.dcr.getLsbD 2 = true ∧ breakAt s.ibar0 s.pc ∨
        s.dcr.getLsbD 3 = true ∧ breakAt s.ibar1 s.pc ∨ s.dcr2.getLsbD 0 = true ∧ breakAt s.ibar2 s.pc ∨
        ∃ b, s.drawnBreak = some b ∧ b.wait = some 0) := by
  intro s hs
  simp only [List.mem_cons, List.not_mem_nil, or_false] at hs
  obtain rfl | rfl | rfl | rfl | rfl := hs
  · exact ⟨calm_ordinary _, rfl, .inl rfl, rfl, rfl, rfl, calm_debugReady _ rfl, .inl rfl⟩
  · exact ⟨calm_ordinary _, rfl, .inl rfl, rfl, rfl, rfl, calm_debugReady _ rfl, .inr (.inl ⟨rfl, fun _ _ _ => rfl⟩)⟩
  · exact ⟨calm_ordinary _, rfl, .inl rfl, rfl, rfl, rfl, calm_debugReady _ rfl,
      .inr (.inr (.inl ⟨rfl, fun _ _ _ => rfl⟩))⟩
  · exact ⟨calm_ordinary _, rfl, .inl rfl, rfl, rfl, rfl, calm_debugReady _ rfl,
      .inr (.inr (.inr (.inl ⟨rfl, fun _ _ _ => rfl⟩)))⟩
  · exact ⟨calm_ordinary _, rfl, .inl rfl, rfl, rfl, rfl, calm_debugReady _ rfl,
      .inr (.inr (.inr (.inr ⟨_, rfl, rfl⟩)))⟩

/-- The three situations in which the step stops: a stored code, `nop` after a delayed branch, a code of class 7. -/
theorem witness_UnspecifiedSituationsStop :
    (let s := { calm with storesPrev2 := [0x201] }
     OrdinaryInput s ∧ s.atBoundary.boundary s.nextInput.irq = .passed s.atBoundary ∧ s.atBoundary.run = .running ∧
     s.atBoundary.codeJustStored = true) ∧
    (let s := { calm with delay := some 0x300#32 }
     OrdinaryInput s ∧ s.atBoundary.boundary s.nextInput.irq = .passed s.atBoundary ∧ s.atBoundary.run = .running ∧
     s.atBoundary.codeJustStored = false ∧ (s.atBoundary.touch .half s.atBoundary.pc).debugCtl ≠ .tripped ∧
     decode s.atBoundary.fetchCode = .ok .nop ∧ s.atBoundary.delay.isSome = true ∧
     Instr.isDelaySlotForm .nop = false) ∧
    (let s := calm.withFetchWord 16 0xE000
     OrdinaryInput s ∧ s.atBoundary.boundary s.nextInput.irq = .passed s.atBoundary ∧ s.atBoundary.run = .running ∧
     s.atBoundary.codeJustStored = false ∧ (s.atBoundary.touch .half s.atBoundary.pc).debugCtl ≠ .tripped ∧
     decode s.atBoundary.fetchCode = .error .reservedClass) :=
  ⟨⟨calm_ordinary _, by decide +kernel, rfl, by decide +kernel⟩,
    ⟨calm_ordinary _, by decide +kernel, rfl, by decide +kernel, by decide +kernel, by decide +kernel, rfl, rfl⟩,
    ⟨calm_ordinary _, by decide +kernel, by decide +kernel, by decide +kernel, by decide +kernel, by decide +kernel⟩⟩

/-- A core whose byte 0x0078010 was written wrongly. -/
def misset : State := { calm with debugCtl := .misset }

/-- A fetch in the window of the debug registers, a load from DCR, `brk`, and a debugging exception after a wrong write;
the store that is one; and an interrupt number that does not exist. -/
theorem witness_UnspecifiedSituationsStop_debug :
    (let s := { misset with pc := 0x78010#32 }
     OrdinaryInput s ∧ s.atBoundary.boundary s.nextInput.irq = .passed s.atBoundary ∧ s.atBoundary.run = .running ∧
     s.atBoundary.codeJustStored = false ∧ s.atBoundary.byteAddress s.atBoundary.pc 0 = 0x78010) ∧
    (∀ c ∈ [(0x3010, Instr.ldWInd 0 1), (0x0400, .brk)],
     let s := { misset.withFetchWord 16 c.1 with regs := (Vector.replicate 16 0x78000#32) }
     OrdinaryInput s ∧ s.atBoundary.boundary s.nextInput.irq = .passed s.atBoundary ∧ s.atBoundary.run = .running ∧
     s.atBoundary.codeJustStored = false ∧ s.atBoundary.delay = none ∧
     (∀ k < 2, s.atBoundary.byteAddress s.atBoundary.pc k < 0x78000) ∧ decode s.atBoundary.fetchCode = .ok c.2 ∧
     s.atBoundary.userMode = true ∧ s.atBoundary.byteAddress (s.atBoundary.baseAddress 1) 0 = 0x78000) ∧
    (let s := { misset with dcr := 2#8 }
     OrdinaryInput s ∧ s.masked = false ∧ s.zdiv = .none ∧ s.run = .running ∧ s.userMode = true ∧ s.debugDue) ∧
    (let s := { calmWith [(1, 0x78010)] Input.quiet with dcr := 1#8 }
     s.userMode = false ∧ s.debugCtl = .ok ∧ (.stBInd 1 2, 0x78010#32) ∈ s.storeForms .byte 1 2 0#6 ∧
     s.byteAddress 0x78010#32 0 = 0x78010) ∧
    (calmWith [] (request 1#4 216)).nextInput.irq = some ⟨1#4, 216⟩ ∧ min calm.cfg.nInterrupts 216 ≤ 216 := by
  refine ⟨⟨calm_ordinary _, by decide +kernel, rfl, by decide +kernel, by decide +kernel⟩, fun c hc => ?_,
    ⟨calm_ordinary _, rfl, rfl, rfl, rfl, .inl rfl⟩, by decide +kernel, rfl, by decide⟩
  simp only [List.mem_cons, List.not_mem_nil, or_false] at hc
  obtain rfl | rfl := hc <;>
    exact ⟨calm_ordinary _, by decide +kernel, by decide +kernel, by decide +kernel, by decide +kernel, by decide +kernel,
      by decide +kernel, by decide +kernel, by decide +kernel⟩

/-- Aligned addresses of each size, with no `ext`, at the top of the address space and through an `ext`. -/
theorem witness_LoadResults :
    ({ calmWith [(1, 0x2001)] Input.quiet with ext := .none }.baseAddress 1).toNat % Size.byte.bytes = 0 ∧
    ({ calmWith [(1, 0xFFFFFFFE)] Input.quiet with ext := .none }.baseAddress 1).toNat % Size.half.bytes = 0 ∧
    ({ calmWith [(1, 0x2001)] Input.quiet with ext := .one 3#13 }.baseAddress 1).toNat % Size.word.bytes = 0 ∧
    ((calmWith [(1, 0xFFFFFFFC)] Input.quiet).reg 1).toNat % Size.word.bytes = 0 := by decide +kernel

theorem witness_StackLoadResults : calm.sp.toNat % 4 = 0 ∧ { calm with sp := 0xFFFFFFFC#32 }.sp.toNat % 4 = 0 := by
  decide

/-- Bytes of plain memory below the device window of the default map. -/
theorem plainBlock_low (s : State) (hc : s.cfg = Config.default) (x : Word) (n : Nat) (h : x.toNat + n ≤ 0x40000) :
    s.plainBlock x n := by
  have hb : ∀ k, k < n → s.byteAddress x k = x.toNat + k := by
    intro k hk
    simp only [State.byteAddress, busAddress, hc, Config.default, BitVec.toNat_add, BitVec.toNat_ofNat]
    rw [show min 28 28 = 28 from rfl]
    omega
  have hl : s.addresses x n = (List.range n).map (x.toNat + ·) :=
    List.map_congr_left fun k hk => hb k (List.mem_range.mp hk)
  rw [State.plainBlock, hl]
  refine ⟨List.Nodup.map (fun a b h => by simpa using h) List.nodup_range, ?_⟩
  intro a ha
  obtain ⟨k, hk, rfl⟩ := List.mem_map.mp ha
  have hk := List.mem_range.mp hk
  have hlt : x.toNat + k < 0x40000 := by omega
  generalize x.toNat + k = a at hlt
  refine ⟨?_, ?_, ?_⟩
  · rw [hc, kindAt, Config.default]
    have h1 : ¬0x40000 ≤ a := by omega
    have h2 : ¬0x300000 ≤ a := by omega
    have h3 : a ≤ 0xFFFFFFF := by omega
    simp [List.find?, h1, h2, h3]
  · cases hk : mappedByte? a with
    | none => rfl
    | some k => have := mappedByte?_address hk; cases k <;> simp only [MappedByte.address, tbrpAddress, ttbrAddress] at this <;> omega
  · intro h; have := h.1; simp only [debugRegistersFirst] at this; omega

/-- A word at a multiple of 4, a half word at a multiple of 2, a byte anywhere, in plain memory. -/
theorem witness_StoreResults :
    ∀ p ∈ [(Size.byte, 0x2003#32), (Size.half, 0x2002#32), (Size.word, 0x3FFFC#32)],
      let s := calmWith [(1, p.2)] Input.quiet
      s.Inv ∧ (s.baseAddress 1).toNat % p.1.bytes = 0 ∧ s.plainBlock (s.baseAddress 1) p.1.bytes ∧
      (s.reg 1).toNat % p.1.bytes = 0 ∧ s.plainBlock (s.reg 1) p.1.bytes := by
  intro p hp s
  have hr : s.reg 1 = p.2 := by simp [s, calmWith, State.reg]
  have hb : s.baseAddress 1 = p.2 := by rw [← hr]; simp [State.baseAddress, s, calmWith, calm, State.reset]
  rw [hb, hr]
  simp only [List.mem_cons, List.not_mem_nil, or_false] at hp
  obtain rfl | rfl | rfl := hp <;>
    exact ⟨calmWith_inv _ _, rfl, plainBlock_low _ rfl _ _ (by decide), rfl, plainBlock_low _ rfl _ _ (by decide)⟩

theorem witness_StackStoreResults :
    calm.Inv ∧ ∀ size ∈ [Size.byte, Size.half, Size.word], calm.plainBlock (calm.stackAddress size 0x3F#6) size.bytes := by
  refine ⟨calm_inv, fun size h => plainBlock_low _ rfl _ _ ?_⟩
  simp only [List.mem_cons, List.not_mem_nil, or_false] at h
  obtain rfl | rfl | rfl := h <;> decide +kernel

/-- ROM, a device, nothing, and the two ends of the window that user mode does not write. -/
theorem witness_IneffectiveStores :
    (let s := { calm with cfg := { Config.default with memMap := [⟨0, 0xFFF, .rom⟩, ⟨0x40000, 0x5FFFF, .device⟩] } }
     ∀ x ∈ [0xFFC#32, 0x40000#32, 0x10000#32], ∀ a ∈ s.addresses x Size.word.bytes,
      mappedByte? a = none ∧ kindAt s.cfg a ≠ .ram) ∧
    (∀ x ∈ [0x78000#32, 0x7FFFC#32], ∀ a ∈ calm.addresses x Size.word.bytes,
      0x78000 ≤ a ∧ a ≤ 0x7FFFF ∧ calm.userMode = true) := by
  refine ⟨fun x hx => ?_, fun x hx => ?_⟩ <;> simp only [List.mem_cons, List.not_mem_nil, or_false] at hx
  · obtain rfl | rfl | rfl := hx <;> decide +kernel
  · obtain rfl | rfl := hx <;> decide +kernel

/-- TBRP, the word, both half words and the byte that disables the writes, with the fewest and the most address bits. -/
theorem witness_TtbrWriteProtocol :
    ∀ bits ∈ [20, 28],
      let s := { calmWith [(1, 0x4812D), (2, 0x48134), (3, 0x48136), (4, 0x48137)] Input.quiet with
        cfg := { Config.default with addrBits := bits } }
      20 ≤ s.cfg.addrBits ∧ (.stBInd 1 0, 0x0004812D#32) ∈ s.storeForms .byte 1 0 0#6 ∧
      (.stWInd 2 0, 0x00048134#32) ∈ s.storeForms .word 2 0 0#6 ∧ s.byteAddress 0x00048134#32 0 = 0x0048134 + 0 ∧
      (.stHPost 2 0, 0x00048134#32) ∈ s.storeForms .half 2 0 0#6 ∧
      (.stHInd 3 0, 0x00048136#32) ∈ s.storeForms .half 3 0 0#6 ∧ s.byteAddress 0x00048136#32 0 = 0x0048134 + 2 ∧
      (.stBPost 4 0, 0x00048137#32) ∈ s.storeForms .byte 4 0 0#6 ∧ s.byteAddress 0x00048137#32 0 = 0x0048134 + 3 := by
  decide +kernel

/-- Each way an address can miss its alignment. -/
theorem witness_MisalignedAccessTraps :
    ∀ x ∈ [0x2001#32, 0x2002#32, 0x2003#32],
      let s := calmWith [(1, x)] Input.quiet
      s.stackReady 24 ∧ (s.baseAddress 1).toNat % 4 ≠ 0 ∧ (s.reg 1).toNat % 4 ≠ 0 ∧
      (x ≠ 0x2002#32 → (s.baseAddress 1).toNat % 2 ≠ 0 ∧ (s.reg 1).toNat % 2 ≠ 0) := by
  intro x hx s
  refine ⟨calm_stackReady _ rfl rfl rfl _ (by decide), ?_⟩
  simp only [List.mem_cons, List.not_mem_nil, or_false] at hx
  obtain rfl | rfl | rfl := hx <;> decide +kernel

/-- A core that compares reads and writes with 0x0002000, a write being recorded already. -/
def watching (regs : List (Reg × Word)) : State :=
  { calmWith regs Input.quiet with dcr := 0x70#8, dbar := 0x2000#32, dbrk := some ⟨false, true, some 2⟩ }

/-- A load and a store that match, through an address with ignored high bits; ones that do not match; a misaligned one;
and a repeat of `mac` whose second pointer matches. -/
theorem witness_DataBreakArmed :
    (let s := watching [(1, 0xF0002000)]
     (.ldWInd 1 1, 0xF0002000#32) ∈ s.loadForms .word 1 1 0#6 ∧ (.stWInd 1 2, 0xF0002000#32) ∈ s.storeForms .word 1 2 0#6 ∧
     (0xF0002000#32).toNat % 4 = 0 ∧ s.breakAccess 5 0xF0002000#32 ∧ s.breakAccess 6 0xF0002000#32) ∧
    (let s := watching [(1, 0x2003)]
     (.ldUbPost 1 1, 0x2003#32) ∈ s.loadForms .byte 1 1 0#6 ∧ (.stHPost 1 2, 0x2003#32) ∈ s.storeForms .half 1 2 0#6 ∧
     (0x2003#32).toNat % 2 ≠ 0 ∧ ¬s.breakAccess 5 0x2003#32 ∧ ¬s.breakAccess 6 0x2003#32) ∧
    (let s := watching [(15, 1), (0, 0x2100), (1, 0x2000)]
     s.cfg.hasMultiplier = true ∧ (0 : Reg).val = ((15 : Reg).val + 1) % 16 ∧ (1 : Reg).val = ((15 : Reg).val + 2) % 16 ∧
     s.reg 15 ≠ 0#32 ∧ (s.reg 0).toNat % 2 = 0 ∧ (s.reg 1).toNat % 2 = 0 ∧
     ¬s.breakAccess 5 (s.reg 0) ∧ s.breakAccess 5 (s.reg 1)) := by
  unfold State.breakAccess
  decide +kernel

theorem witness_MultiplicationResults : calm.cfg.hasMultiplier = true := rfl

theorem witness_OptionAbsentIsNop :
    { calm with cfg := { Config.default with hasMultiplier := false } }.cfg.hasMultiplier = false := rfl

theorem witness_DivisionStart :
    calm.cfg.hasMultiplier = true ∧ (calm.reg 0 = 0#32 ∧ calm.zdiv = .none) ∧
    (calmWith [(1, 5)] Input.quiet).reg 1 ≠ 0#32 := by decide +kernel

/-- Both sides of each condition of the three steps. -/
theorem witness_DivisionSteps :
    calm.cfg.hasMultiplier = true ∧ calm.psr.getLsbD 6 = calm.psr.getLsbD 0 ∧
    { calm with psr := 0x40#32 }.psr.getLsbD 6 ≠ { calm with psr := 0x40#32 }.psr.getLsbD 0 ∧
    (let s := { calmWith [(1, 5)] Input.quiet with psr := 0x40#32, ahr := 0xFFFFFFFB#32 }
     s.psr.getLsbD 6 = true ∧ ((s.ahr.toNat : Int) + (s.reg 1).toNat) % 2 ^ 32 = 0) := by decide +kernel

theorem witness_UnsignedDivision :
    (calmWith [(1, 7)] Input.quiet).cfg.hasMultiplier = true ∧ (calmWith [(1, 7)] Input.quiet).reg 1 ≠ 0#32 := by
  decide +kernel

theorem witness_SignedDivision :
    (calmWith [(1, 0xFFFFFFFF)] Input.quiet).cfg.hasMultiplier = true ∧
    (calmWith [(1, 0xFFFFFFFF)] Input.quiet).reg 1 ≠ 0#32 := by decide +kernel

/-- The three clauses: counter 0; even pointers, with rs = R15 so that the pointers are R0 and R1; an odd pointer. -/
theorem witness_MacRepeats :
    calm.cfg.hasMultiplier = true ∧
    ((0 : Reg).val = ((15 : Reg).val + 1) % 16 ∧ (1 : Reg).val = ((15 : Reg).val + 2) % 16) ∧
    calm.reg 15 = 0#32 ∧
    (let s := calmWith [(15, 1), (0, 0x2000), (1, 0x2100)] Input.quiet
     s.reg 15 ≠ 0#32 ∧ (s.reg 0).toNat % 2 = 0 ∧ (s.reg 1).toNat % 2 = 0) ∧
    (let s := calmWith [(15, 1), (0, 0x2000), (1, 0x2101)] Input.quiet
     s.reg 15 ≠ 0#32 ∧ (s.reg 1).toNat % 2 = 1 ∧ s.stackReady 24) :=
  ⟨rfl, by decide, rfl, by decide +kernel, by decide +kernel, by decide +kernel, calm_stackReady _ rfl rfl rfl _ (by decide)⟩

/-- An address of plain memory, and with `ext` none each kind of memory-mapped register. -/
theorem witness_BitOperationResults :
    calm.Inv ∧ calm.plainRam (calm.byteAddress (calm.baseAddress 0) 0) ∧
    ∀ a ∈ [0x4812D, 0x48137, 0x78000, 0x78017],
      let s := calmWith [(0, BitVec.ofNat 32 a)] Input.quiet
      s.byteAddress (s.baseAddress 0) 0 = a :=
  ⟨calm_inv, (plainBlock_low calm rfl (calm.baseAddress 0) 1 (by decide +kernel)).2 _ (by
    simp [State.addresses]), by decide +kernel⟩

theorem witness_PushResults : calm.Inv ∧ calm.plainBlock (calm.sp - BitVec.ofNat 32 64) 64 :=
  ⟨calm_inv, plainBlock_low _ rfl _ _ (by decide +kernel)⟩

theorem witness_PopUndoesPush :
    calm.plainBlock (calm.sp - BitVec.ofNat 32 (4 * ((15 : Reg).val + 1))) (4 * ((15 : Reg).val + 1)) ∧
    ∃ t u, exec (.pushn 15) calm = .next t ∧ exec (.popn 15) t = .next u :=
  ⟨plainBlock_low _ rfl _ _ (by decide +kernel), _, _, rfl, rfl⟩

/-- Flags for which each condition of the branches holds and flags for which it does not. -/
theorem witness_BranchResults :
    (let p := calm.psr; p.getLsbD 1 = false ∧ p.getLsbD 0 = p.getLsbD 2 ∧ p.getLsbD 3 = false) ∧
    (let p := { calm with psr := 0xB#32 }.psr; p.getLsbD 1 = true ∧ p.getLsbD 0 ≠ p.getLsbD 2 ∧ p.getLsbD 3 = true) := by
  decide

theorem witness_BranchAfterCompare : calm.ext = .none ∧ ∃ t, exec (.cmpReg 1 2) calm = .next t := ⟨rfl, _, rfl⟩

theorem witness_CallResults : calm.Inv ∧ calm.plainBlock (calm.sp - 4#32) 4 :=
  ⟨calm_inv, plainBlock_low _ rfl _ _ (by decide +kernel)⟩

theorem witness_SoftwareExceptionTaken : ∀ imm2 : BitVec 2, calm.stackReady (48 + 4 * imm2.toNat) :=
  fun imm2 => calm_stackReady _ rfl rfl rfl _ (by omega)

/-- A trap taken at a boundary, and `int` with its return address PC + 2. -/
theorem witness_ReturnUndoesTrap :
    calm.Inv ∧ calm.pc.toNat % 2 = 0 ∧ (calm.pc + 2#32).toNat % 2 = 0 ∧
    (∃ t u, TrapTaken calm 28 calm.pc none t ∧ exec .reti t = .next u) ∧
    ∃ t u, TrapTaken calm 48 (calm.pc + 2#32) none t ∧ exec .reti t = .next u :=
  ⟨calm_inv, rfl, rfl,
    ⟨_, _, State.trapEntry_taken (calm_stackReady _ rfl rfl rfl 28 (by decide)) .hardware calm.pc none, rfl⟩,
    ⟨_, _, State.trapEntry_taken (calm_stackReady _ rfl rfl rfl 48 (by decide)) .instruction (calm.pc + 2#32) none, rfl⟩⟩

theorem witness_DebugInstructions :
    calm.userMode = true ∧ calm.debugReady ∧ { calm with dcr := 1#8 }.userMode = false :=
  ⟨rfl, calm_debugReady _ rfl, rfl⟩

theorem witness_SystemInstructions :
    calm.ext = .none ∧ { calm with ext := .one 0#13 }.ext = .one 0#13 ∧
    { calm with ext := .two 0#13 0x1FFF#13 }.ext = .two 0#13 0x1FFF#13 := ⟨rfl, rfl, rfl⟩

/-- An instruction that changes no flag of its row's other bits, one with zeros in its row, and `mac` with MO set. -/
theorem witness_FlagTable :
    (∃ t, exec .nop calm = .next t ∧ t ≠ calm.addressError ∧ 0 ∉ Instr.flagRow .nop) ∧
    (∃ t, exec (.scan0 1 2) calm = .next t ∧ calm.cfg.hasMultiplier = true ∧ 0 ∈ Instr.zeroRow (.scan0 1 2)) ∧
    (∃ t, exec (.mac 1) { calm with psr := 0x80#32 } = .next t ∧ { calm with psr := 0x80#32 }.psr.getLsbD 7 = true) :=
  ⟨⟨_, rfl, by decide +kernel, by decide⟩, ⟨_, rfl, rfl, by decide⟩, ⟨_, rfl, rfl⟩⟩

theorem witness_HiddenStateWriters : ∃ t, exec (.jpDelayed 4#8) calm = .next t := ⟨_, rfl⟩

theorem witness_UnextendableIgnorePrefix : Instr.usesPrefix (.adc 1 2) = false ∧ Instr.usesPrefix (.mac 0) = false := ⟨rfl, rfl⟩

/-- A store in user mode; in debugging mode the aligned words that cover each of the debug registers. -/
theorem witness_DebugRegistersGuarded :
    calm.userMode = true ∧ (∃ t, exec (.stWInd 1 2) calm = .next t) ∧
    ∀ x ∈ [0x78000, 0x78004, 0x78008, 0x7800C, 0x78010, 0x78014],
      let s := { calmWith [(1, BitVec.ofNat 32 x)] Input.quiet with dcr := 1#8 }
      s.userMode = false ∧ (.stWInd 1 2, BitVec.ofNat 32 x) ∈ s.storeForms .word 1 2 0#6 ∧
      (BitVec.ofNat 32 x).toNat % 4 = 0 ∧ ∀ j < 4, s.byteAddress (BitVec.ofNat 32 x) j = x + j := by
  refine ⟨rfl, ⟨_, rfl⟩, ?_⟩
  decide +kernel

end Sys2Proof.Tests
end

/-! SUPPORT. The table of PSR writes (10_state.md R62): what each shared operation does to the PSR, then which flags an instruction keeps, then the table. -/

namespace Sys2Proof.Machine

/-! ### The bits a flag computation keeps -/

/-- The bit just written reads back. -/
theorem getLsbD_withBit_self (p : Word) {i : Nat} (b : Bool) (hi : i < 32) : (withBit p i b).getLsbD i = b := by
  rw [getLsbD_withBit p i b hi, if_pos rfl]

/-- Replacing one bit keeps the others. -/
theorem getLsbD_withBit_of_ne (p : Word) {i k : Nat} (b : Bool) (h : k ≠ i) :
    (withBit p i b).getLsbD k = p.getLsbD k := by
  rcases Nat.lt_or_ge k 32 with hk | hk
  · rw [getLsbD_withBit p i b hk, if_neg h]
  · simp [BitVec.getLsbD_of_ge, hk]

theorem getLsbD_withZN_of_notMem (p res : Word) {k : Nat} (h : k ∉ [1, 0]) :
    (withZN p res).getLsbD k = p.getLsbD k := by
  obtain ⟨hZ, hN⟩ : k ≠ bitZ ∧ k ≠ bitN := by simpa [bitZ, bitN] using h
  rw [withZN, getLsbD_withBit_of_ne _ _ hN, getLsbD_withBit_of_ne _ _ hZ]

theorem getLsbD_withArith_of_notMem (p : Word) (r : ArithResult) {k : Nat} (h : k ∉ [3, 2, 1, 0]) :
    (withArith p r).getLsbD k = p.getLsbD k := by
  obtain ⟨hC, hV, hZ, hN⟩ : k ≠ bitC ∧ k ≠ bitV ∧ k ≠ bitZ ∧ k ≠ bitN := by simpa [bitC, bitV, bitZ, bitN] using h
  rw [withArith, getLsbD_withBit_of_ne _ _ hN, getLsbD_withBit_of_ne _ _ hZ, getLsbD_withBit_of_ne _ _ hV,
    getLsbD_withBit_of_ne _ _ hC]

theorem getLsbD_withScan_of_notMem (p : Word) (offset : Nat) {k : Nat} (h : k ∉ [3, 2, 1, 0]) :
    (withScan p offset).getLsbD k = p.getLsbD k :=
  getLsbD_withArith_of_notMem p ⟨0#32, offset == 8, false, offset == 0, false⟩ h

/-- A scan clears V and N (48_system_ext_misc.md R381, R382). -/
theorem getLsbD_withScan_eq_false (p : Word) (offset : Nat) {k : Nat} (h : k ∈ [2, 0]) :
    (withScan p offset).getLsbD k = false := by
  obtain rfl | rfl : k = bitV ∨ k = bitN := by simpa [bitV, bitN] using h
  · rw [withScan, getLsbD_withBit_of_ne _ _ (by decide), getLsbD_withBit_of_ne _ _ (by decide),
      getLsbD_withBit_self _ _ (by decide)]
  · exact getLsbD_withBit_self _ _ (by decide)

/-! ### The PSR after each shared operation -/

@[simp] theorem State.resultZN_psr (s : State) (rd : Reg) (res : Word) : (s.resultZN rd res).psr = withZN s.psr res := rfl
@[simp] theorem State.resultArith_psr (s : State) (rd : Reg) (r : ArithResult) :
    (s.resultArith rd r).psr = withArith s.psr r := rfl
@[simp] theorem State.resultScan_psr (s : State) (rd : Reg) (offset : Nat) :
    (s.resultScan rd offset).psr = withScan s.psr offset := rfl

@[simp] theorem State.branchTo_psr (s : State) (delayed : Bool) (t : Word) : (s.branchTo delayed t).psr = s.psr := by
  cases delayed <;> rfl

@[simp] theorem State.noBranch_psr (s : State) (delayed : Bool) : (s.noBranch delayed).psr = s.psr := by
  cases delayed <;> rfl

@[simp] theorem State.branchIf_psr (s : State) (cond delayed : Bool) (sign8 : BitVec 8) :
    (s.branchIf cond delayed sign8).psr = s.psr := by
  cases cond
  · exact s.noBranch_psr delayed
  · exact s.branchTo_psr delayed _

@[simp] theorem State.callTo_psr (s : State) (delayed : Bool) (t : Word) : (s.callTo delayed t).psr = s.psr := by
  rw [State.callTo, State.branchTo_psr, State.push_psr]

@[simp] theorem State.returnBy_psr (s : State) (delayed : Bool) : (s.returnBy delayed).psr = s.psr := by
  rw [State.returnBy, State.branchTo_psr, State.pop_psr]

@[simp] theorem State.pushRegs_psr (s : State) (n : Nat) : (s.pushRegs n).psr = s.psr := by
  induction n generalizing s with
  | zero => rfl
  | succ n ih => rw [State.pushRegs, ih, State.push_psr]

@[simp] theorem State.popRegs_psr (s : State) (n : Nat) : (s.popRegs n).psr = s.psr := by
  induction n with
  | zero => rfl
  | succ n ih => rw [State.popRegs, State.setReg_psr, State.pop_psr, ih]

@[simp] theorem State.rewriteByte_psr (s : State) (x : Word) (f : Byte → Byte) : (s.rewriteByte x f).psr = s.psr := by
  rw [State.rewriteByte, State.advance_psr, State.store_psr, State.noteRead_psr]

@[simp] theorem State.raiseZeroDivision_psr (s : State) (divisor : Word) : (s.raiseZeroDivision divisor).psr = s.psr := by
  unfold State.raiseZeroDivision; split <;> rfl

@[simp] theorem State.debugReturn_psr (s : State) : s.debugReturn.psr = s.psr := by
  simp only [State.debugReturn, State.noteRead_psr]

/-- A trap that is no maskable interrupt clears IE and changes no other bit (60_exceptions.md R410). -/
theorem State.trapEntry_none_psr (s : State) (agent : Agent) (offset ret : Word) :
    (s.trapEntry agent offset ret none).psr = withBit s.psr bitIE false := by
  simp only [State.trapEntry, State.loadVector, State.touch_psr, State.push_psr]

/-- A repeat of `mac` sets MO or leaves the PSR alone (43_multiply_divide_mac.md R271). -/
theorem State.macRepeat_psr (s : State) (rs : Reg) :
    (s.macRepeat rs).psr = s.psr ∨ (s.macRepeat rs).psr = withBit s.psr bitMO true := by
  simp only [State.macRepeat, State.setReg_psr]
  split
  · right; simp only [State.setAccumulator_psr, State.noteRead_psr]
  · left; simp only [State.setAccumulator_psr, State.noteRead_psr]

/-! ### Flags kept -/

/-- `t` is the address error exception of `s`, or no PSR bit beside `bits` differs. -/
def FlagsKept (bits : List Nat) (s t : State) : Prop :=
  t = s.addressError ∨ ∀ k, k ∉ bits → t.psr.getLsbD k = s.psr.getLsbD k

namespace FlagsKept

variable {s t : State} {bits : List Nat}

theorem of_psr (h : t.psr = s.psr) : FlagsKept bits s t := .inr fun k _ => by rw [h]

/-- Every PSR bit may change: beyond bit 31 there is none. -/
theorem of_range (s t : State) : FlagsKept (List.range 32) s t := .inr fun k hk => by
  have hk : 32 ≤ k := by simpa using hk
  rw [BitVec.getLsbD_of_ge _ _ hk, BitVec.getLsbD_of_ge _ _ hk]

theorem of_withBit {i : Nat} {b : Bool} (h : t.psr = withBit s.psr i b) : FlagsKept [i] s t :=
  .inr fun k hk => by rw [h, getLsbD_withBit_of_ne _ _ (by simpa using hk)]

theorem of_withArith {r : ArithResult} (h : t.psr = withArith s.psr r) : FlagsKept [3, 2, 1, 0] s t :=
  .inr fun k hk => by rw [h, getLsbD_withArith_of_notMem _ _ hk]

theorem resultZN (s : State) (rd : Reg) (res : Word) : FlagsKept [1, 0] s (s.resultZN rd res) :=
  .inr fun _ hk => getLsbD_withZN_of_notMem _ _ hk

theorem resultScan (s : State) (rd : Reg) (offset : Nat) : FlagsKept [3, 2, 1, 0] s (s.resultScan rd offset) :=
  .inr fun _ hk => getLsbD_withScan_of_notMem _ _ hk

/-- The two bits of a division start (43_multiply_divide_mac.md R258, R259). -/
theorem of_withDivision {ds n : Bool} (h : t.psr = withBit (withBit s.psr bitDS ds) bitN n) :
    FlagsKept [6, 0] s t := .inr fun k hk => by
  obtain ⟨hDS, hN⟩ : k ≠ bitDS ∧ k ≠ bitN := by simpa [bitDS, bitN] using hk
  rw [h, getLsbD_withBit_of_ne _ _ hN, getLsbD_withBit_of_ne _ _ hDS]

/-- An access that ends in the address error exception if it is misaligned. -/
theorem ite_addressError {c : Prop} [Decidable c] (h : t.psr = s.psr) :
    FlagsKept bits s (if c then s.addressError else t) := by
  split
  · exact .inl rfl
  · exact of_psr h

theorem loadTo (s : State) (rd : Reg) (size : Size) (signed : Bool) (x : Word) :
    FlagsKept [] s (s.loadTo rd size signed x) :=
  ite_addressError (s.noteRead_psr size x)

theorem loadPost (s : State) (rd rb : Reg) (size : Size) (signed : Bool) :
    FlagsKept [] s (s.loadPost rd rb size signed) :=
  ite_addressError (s.noteRead_psr size (s.reg rb))

theorem storeFrom (s : State) (rs : Reg) (size : Size) (x : Word) : FlagsKept [] s (s.storeFrom rs size x) :=
  ite_addressError (s.store_psr size x (s.reg rs))

theorem storePost (s : State) (rb rs : Reg) (size : Size) : FlagsKept [] s (s.storePost rb rs size) :=
  ite_addressError (s.store_psr size (s.reg rb) (s.reg rs))

end FlagsKept

/-! ### The instructions with more than one way to end -/

theorem execLdWToSpecial_flagsKept (sd : SpecialReg) (rs : Reg) (s : State) :
    ∃ t, execLdWToSpecial sd rs s = .next t ∧ FlagsKept (Instr.flagRow (.ldWToSpecial sd rs)) s t := by
  cases sd with
  | psr => exact ⟨_, rfl, .of_range _ _⟩
  | sp => exact ⟨_, rfl, .of_psr rfl⟩
  | alr | ahr => exact ⟨_, rfl, .of_psr (by split <;> rfl)⟩

theorem execLdWFromSpecial_flagsKept (rd : Reg) (ss : SpecialReg) (s : State) :
    ∃ t, execLdWFromSpecial rd ss s = .next t ∧ FlagsKept [] s t := by
  cases ss with
  | psr | sp => exact ⟨_, rfl, .of_psr rfl⟩
  | alr | ahr => exact ⟨_, rfl, .of_psr (by split <;> rfl)⟩

theorem execDiv0s_flagsKept (rs : Reg) (s : State) : ∃ t, execDiv0s rs s = .next t ∧ FlagsKept [6, 0] s t := by
  unfold execDiv0s
  split
  · exact ⟨_, rfl, .of_withDivision (State.raiseZeroDivision_psr _ _)⟩
  · exact ⟨_, rfl, .of_psr rfl⟩

/-- With the multiplier `div0u` clears DS and N (43_multiply_divide_mac.md R259). -/
theorem execDiv0u_of_hasMultiplier (rs : Reg) {s : State} (hm : s.cfg.hasMultiplier = true) :
    ∃ t, execDiv0u rs s = .next t ∧ t.psr = withBit (withBit s.psr bitDS false) bitN false :=
  ⟨_, if_pos hm, State.raiseZeroDivision_psr _ _⟩

theorem execDiv0u_flagsKept (rs : Reg) (s : State) : ∃ t, execDiv0u rs s = .next t ∧ FlagsKept [6, 0] s t := by
  by_cases hm : s.cfg.hasMultiplier = true
  · obtain ⟨t, ht, hpsr⟩ := execDiv0u_of_hasMultiplier rs hm
    exact ⟨t, ht, .of_withDivision hpsr⟩
  · exact ⟨_, if_neg hm, .of_psr rfl⟩

theorem execDiv1_flagsKept (rs : Reg) (s : State) : ∃ t, execDiv1 rs s = .next t ∧ FlagsKept [] s t := by
  unfold execDiv1
  split <;> exact ⟨_, rfl, .of_psr rfl⟩

theorem execDiv2s_flagsKept (rs : Reg) (s : State) : ∃ t, execDiv2s rs s = .next t ∧ FlagsKept [] s t := by
  unfold execDiv2s
  split <;> exact ⟨_, rfl, .of_psr rfl⟩

theorem execDiv3s_flagsKept (ignored : BitVec 4) (s : State) :
    ∃ t, execDiv3s ignored s = .next t ∧ FlagsKept [] s t := by
  unfold execDiv3s
  split <;> exact ⟨_, rfl, .of_psr rfl⟩

/-- `mac` ends, takes the address error, or does one repeat (43_multiply_divide_mac.md R270). -/
theorem execMac_cases (rs : Reg) (s : State) :
    execMac rs s = .next s.advance ∨ execMac rs s = .next s.addressError ∨ execMac rs s = .next (s.macRepeat rs) := by
  unfold execMac
  split
  · exact .inl rfl
  · split
    · exact .inr (.inl rfl)
    · exact .inr (.inr rfl)

theorem execMac_flagsKept (rs : Reg) (s : State) : ∃ t, execMac rs s = .next t ∧ FlagsKept [7] s t := by
  obtain h | h | h := execMac_cases rs s
  · exact ⟨_, h, .of_psr rfl⟩
  · exact ⟨_, h, .inl rfl⟩
  · exact ⟨_, h, (s.macRepeat_psr rs).elim .of_psr .of_withBit⟩

/-! ### All instructions -/

/-- Every instruction completes and changes only the PSR bits of its row, or takes the address error exception
(10_state.md R62). -/
theorem exec_flagsKept (i : Instr) (s : State) : ∃ t, exec i s = .next t ∧ FlagsKept i.flagRow s t := by
  cases i
  case addReg | addImm | adc | subReg | subImm | sbc | cmpReg | cmpImm => exact ⟨_, rfl, .of_withArith rfl⟩
  case andReg | andImm | orReg | orImm | xorReg | xorImm | notReg | notImm => exact ⟨_, rfl, .resultZN ..⟩
  case srlImm | srlReg | sllImm | sllReg | sraImm | sraReg | slaImm | slaReg | rrImm | rrReg | rlImm | rlReg =>
    exact ⟨_, rfl, .resultZN ..⟩
  case scan0 | scan1 => exact ⟨_, rfl, .resultScan ..⟩
  case btst rb imm3 =>
    exact ⟨_, rfl, .of_withBit (congrArg (withBit · bitZ _) (s.noteRead_psr .byte (s.indirect rb)))⟩
  case bclr | bset | bnot => exact ⟨_, rfl, .of_psr (State.rewriteByte_psr ..)⟩
  case div0s rs => exact execDiv0s_flagsKept rs s
  case div0u rs => exact execDiv0u_flagsKept rs s
  case div1 rs => exact execDiv1_flagsKept rs s
  case div2s rs => exact execDiv2s_flagsKept rs s
  case div3s ignored => exact execDiv3s_flagsKept ignored s
  case mac rs => exact execMac_flagsKept rs s
  case mltH | mltuH | mltW | mltuW => exact ⟨_, rfl, .of_psr (by split <;> rfl)⟩
  case ldWToSpecial sd rs => exact execLdWToSpecial_flagsKept sd rs s
  case ldWFromSpecial rd ss => exact execLdWFromSpecial_flagsKept rd ss s
  case ldBReg | ldUbReg | ldHReg | ldUhReg | ldWReg | ldWImm | swap | mirror => exact ⟨_, rfl, .of_psr rfl⟩
  case addSp | subSp | nop | slp | halt | ext => exact ⟨_, rfl, .of_psr rfl⟩
  case ldBInd | ldBSp | ldUbInd | ldUbSp | ldHInd | ldHSp | ldUhInd | ldUhSp | ldWInd | ldWSp =>
    exact ⟨_, rfl, .loadTo ..⟩
  case ldBPost | ldUbPost | ldHPost | ldUhPost | ldWPost => exact ⟨_, rfl, .loadPost ..⟩
  case stBInd | stBSp | stHInd | stHSp | stWInd | stWSp => exact ⟨_, rfl, .storeFrom ..⟩
  case stBPost | stHPost | stWPost => exact ⟨_, rfl, .storePost ..⟩
  case pushn rs => exact ⟨_, rfl, .of_psr (s.pushRegs_psr (rs.val + 1))⟩
  case popn rd => exact ⟨_, rfl, .of_psr (s.popRegs_psr (rd.val + 1))⟩
  case jrgt | jrge | jrlt | jrle | jrugt | jruge | jrult | jrule | jreq | jrne =>
    exact ⟨_, rfl, .of_psr (State.branchIf_psr ..)⟩
  case jrgtDelayed | jrgeDelayed | jrltDelayed | jrleDelayed | jrugtDelayed | jrugeDelayed | jrultDelayed
      | jruleDelayed | jreqDelayed | jrneDelayed =>
    exact ⟨_, rfl, .of_psr (State.branchIf_psr ..)⟩
  case jp | jpDelayed | jpReg | jpRegDelayed => exact ⟨_, rfl, .of_psr (State.branchTo_psr ..)⟩
  case call | callDelayed | callReg | callRegDelayed => exact ⟨_, rfl, .of_psr (State.callTo_psr ..)⟩
  case ret | retDelayed => exact ⟨_, rfl, .of_psr (State.returnBy_psr ..)⟩
  case brk => exact ⟨_, rfl, .of_psr (by split <;> simp)⟩
  case retd => exact ⟨_, rfl, .of_psr s.debugReturn_psr⟩
  case int => exact ⟨_, rfl, .of_withBit (State.trapEntry_none_psr ..)⟩
  case reti => exact ⟨_, rfl, .of_range ..⟩

/-- The bits for which a row prints 0 are 0 after the instruction (10_state.md R62). -/
theorem exec_zeroRow {i : Instr} {s t : State} {k : Nat} (h : exec i s = .next t) (hm : s.cfg.hasMultiplier = true)
    (hk : k ∈ i.zeroRow) : t.psr.getLsbD k = false := by
  unfold Instr.zeroRow at hk
  split at hk
  case h_1 | h_2 => cases h; exact getLsbD_withScan_eq_false _ _ hk
  case h_3 rs =>
    obtain ⟨u, hu, hpsr⟩ := execDiv0u_of_hasMultiplier rs hm
    obtain rfl := Host.Outcome.next.inj (h.symm.trans hu)
    obtain rfl | rfl : k = bitDS ∨ k = bitN := by simpa [bitDS, bitN] using hk
    · rw [hpsr, getLsbD_withBit_of_ne _ _ (by decide), getLsbD_withBit_self _ _ (by decide)]
    · rw [hpsr, getLsbD_withBit_self _ _ (by decide)]
  case h_4 imm2 =>
    cases h
    obtain rfl : k = bitIE := by simpa [bitIE] using hk
    rw [State.trapEntry_none_psr, getLsbD_withBit_self _ _ (by decide)]
  case h_5 => exact absurd hk List.not_mem_nil

/-- `mac` never clears MO, on any of its ways to end (10_state.md R62). -/
theorem exec_mac_keeps_mo {rs : Reg} {s t : State} (h : exec (.mac rs) s = .next t)
    (hmo : s.psr.getLsbD bitMO = true) : t.psr.getLsbD bitMO = true := by
  have hnext : ∀ {u}, execMac rs s = .next u → t = u := fun hu => Host.Outcome.next.inj (h.symm.trans hu)
  obtain hu | hu | hu := execMac_cases rs s <;> rw [hnext hu]
  · exact hmo
  · rwa [State.addressError, State.trapEntry_none_psr, getLsbD_withBit_of_ne _ _ (by decide)]
  · obtain hp | hp := s.macRepeat_psr rs <;> rw [hp]
    · exact hmo
    · exact getLsbD_withBit_self _ _ (by decide)

/-! ### The table -/

/-- Settles O57: the rows by `exec_flagsKept`, `exec_zeroRow` and `exec_mac_keeps_mo`; traps, the debugging exception and
reset by the PSR each leaves. -/
theorem flagTable : Obligations.FlagTable := by
  refine ⟨fun i s t k h hne hk => ?_, fun i s t k => exec_zeroRow, fun rs s t => exec_mac_keeps_mo,
    fun s agent offset ret level k hk => s.trapEntry_psr agent offset ret level hk, State.debugEntry_psr,
    fun _ _ => rfl⟩
  obtain ⟨u, hu, hkept⟩ := exec_flagsKept i s
  obtain rfl : u = t := Host.Outcome.next.inj (hu.symm.trans h)
  exact hkept.resolve_left hne k hk

end Sys2Proof.Machine

/-! SUPPORT. The logic instructions (41_logic.md R201 to R210): what a result with Z and N leaves behind, then the result of each form, then the obligation. -/

namespace Sys2Proof.Machine

/-! ### A result with Z and N -/

/-- Z of a result says that it is 0 (41_logic.md R201). -/
theorem getLsbD_withZN_z (p res : Word) : (withZN p res).getLsbD 1 = (res == 0#32) := by
  rw [withZN, getLsbD_withBit_of_ne _ _ (by decide)]
  exact getLsbD_withBit_self _ _ (by decide)

/-- N of a result is its sign bit (41_logic.md R201). -/
theorem getLsbD_withZN_n (p res : Word) : (withZN p res).getLsbD 0 = res.getLsbD 31 := by
  rw [withZN, ← BitVec.msb_eq_getLsbD_last]
  exact getLsbD_withBit_self _ _ (by decide)

@[simp] theorem State.resultZN_reg_self (s : State) (rd : Reg) (res : Word) : (s.resultZN rd res).reg rd = res :=
  State.reg_setReg_self { s with psr := withZN s.psr res } rd res

theorem State.resultZN_z_iff (s : State) (rd : Reg) (res : Word) :
    (s.resultZN rd res).psr.getLsbD 1 = true ↔ res = 0#32 := by
  rw [State.resultZN_psr, getLsbD_withZN_z, beq_iff_eq]

theorem State.resultZN_n (s : State) (rd : Reg) (res : Word) :
    (s.resultZN rd res).psr.getLsbD 0 = res.getLsbD 31 :=
  getLsbD_withZN_n s.psr res

theorem advanced_resultZN (s : State) (rd : Reg) (res : Word) : Advanced s (s.resultZN rd res) := ⟨rfl, rfl, rfl⟩

/-- A result with Z and N makes no data access and changes nothing but its register and these two flags. -/
theorem quietFrame_resultZN (s : State) (rd : Reg) (res : Word) :
    QuietFrame [rd] [0, 1] [] s (s.resultZN rd res) := by
  obtain ⟨hcore, hmapped, hmemory, haccesses⟩ := quietFrame_setReg { s with psr := withZN s.psr res } rd res
  exact
    { core := { hcore with
        flags := fun k hk =>
          getLsbD_withZN_of_notMem s.psr res fun h => hk (List.mem_pair.mpr (List.mem_pair.mp h).symm) }
      mapped := { hmapped with }
      memory := hmemory
      accesses := { haccesses with } }

/-! ### The result of each form -/

section
variable (s : State) (rd rs : Reg) (sign6 : BitVec 6)

theorem exec_andReg : exec (.andReg rd rs) s = .next (s.resultZN rd (s.leftOperand rd rs &&& s.rightOperand rs)) := by
  change execAndReg rd rs s = _
  rw [execAndReg, registerOperands_eq]

theorem exec_orReg : exec (.orReg rd rs) s = .next (s.resultZN rd (s.leftOperand rd rs ||| s.rightOperand rs)) := by
  change execOrReg rd rs s = _
  rw [execOrReg, registerOperands_eq]

theorem exec_xorReg : exec (.xorReg rd rs) s = .next (s.resultZN rd (s.leftOperand rd rs ^^^ s.rightOperand rs)) := by
  change execXorReg rd rs s = _
  rw [execXorReg, registerOperands_eq]

/-- A pending `ext` does not change the operand of `not %rd,%rs` (41_logic.md R209). -/
theorem exec_notReg : exec (.notReg rd rs) s = .next (s.resultZN rd (~~~s.reg rs)) := rfl

theorem exec_andImm :
    exec (.andImm rd sign6) s = .next (s.resultZN rd (s.reg rd &&& BitVec.ofInt 32 (s.ext.signed6 sign6))) := by
  rw [← signOperand_eq]; rfl

theorem exec_orImm :
    exec (.orImm rd sign6) s = .next (s.resultZN rd (s.reg rd ||| BitVec.ofInt 32 (s.ext.signed6 sign6))) := by
  rw [← signOperand_eq]; rfl

theorem exec_xorImm :
    exec (.xorImm rd sign6) s = .next (s.resultZN rd (s.reg rd ^^^ BitVec.ofInt 32 (s.ext.signed6 sign6))) := by
  rw [← signOperand_eq]; rfl

theorem exec_notImm :
    exec (.notImm rd sign6) s = .next (s.resultZN rd (~~~BitVec.ofInt 32 (s.ext.signed6 sign6))) := by
  rw [← signOperand_eq]; rfl

end

/-! ### The eight forms -/

/-- An instruction whose result is `op` bit by bit on `a` and `b`, with Z and N, does what a logic form has to do. -/
theorem logic_result {i : Instr} {s : State} {rd : Reg} {res a b : Word} {op : Bool → Bool → Bool}
    (hexec : exec i s = .next (s.resultZN rd res))
    (hbits : ∀ k < 32, res.getLsbD k = op (a.getLsbD k) (b.getLsbD k)) :
    ∃ t, exec i s = .next t ∧
      (∀ k < 32, (t.reg rd).getLsbD k = op (a.getLsbD k) (b.getLsbD k)) ∧
      (t.psr.getLsbD 1 = true ↔ t.reg rd = 0#32) ∧ t.psr.getLsbD 0 = (t.reg rd).getLsbD 31 ∧
      QuietFrame [rd] [0, 1] [] s t ∧ Advanced s t := by
  refine ⟨_, hexec, ?_, ?_, ?_, quietFrame_resultZN s rd res, advanced_resultZN s rd res⟩ <;>
    rw [State.resultZN_reg_self]
  · exact hbits
  · exact s.resultZN_z_iff rd res
  · exact s.resultZN_n rd res

/-- A complement inverts each of the 32 bits. -/
theorem getLsbD_complement (b : Word) {k : Nat} (hk : k < 32) : (~~~b).getLsbD k = !b.getLsbD k := by
  rw [BitVec.getLsbD_not, decide_eq_true hk, Bool.true_and]

/-- Settles O30: each form by its equation and the bits of its operation, with `logic_result` for the flags and the
frame. -/
theorem logicResults : Obligations.LogicResults := by
  intro s rd rs sign6
  simp only [List.forall_mem_cons]
  refine ⟨?and, ?andImm, ?or, ?orImm, ?xor, ?xorImm, ?not, ?notImm, List.forall_mem_nil _⟩
  case and => exact logic_result (exec_andReg s rd rs) fun _ _ => BitVec.getLsbD_and
  case andImm => exact logic_result (exec_andImm s rd sign6) fun _ _ => BitVec.getLsbD_and
  case or => exact logic_result (exec_orReg s rd rs) fun _ _ => BitVec.getLsbD_or
  case orImm => exact logic_result (exec_orImm s rd sign6) fun _ _ => BitVec.getLsbD_or
  case xor => exact logic_result (exec_xorReg s rd rs) fun _ _ => BitVec.getLsbD_xor
  case xorImm => exact logic_result (exec_xorImm s rd sign6) fun _ _ => BitVec.getLsbD_xor
  case not =>
    exact logic_result (a := s.reg rd) (op := fun _ b => !b) (exec_notReg s rd rs) fun _ hk => getLsbD_complement _ hk
  case notImm =>
    exact logic_result (a := s.reg rd) (op := fun _ b => !b) (exec_notImm s rd sign6) fun _ hk => getLsbD_complement _ hk

end Sys2Proof.Machine

/-! SUPPORT. The shifts and rotations (44_shift_rotate.md R281 to R295): the count, each word operation in arithmetic, what each of the twelve forms computes, then the obligation. -/

namespace Sys2Proof.Machine

/-! ### The count -/

/-- `Count(x4)` as a number: every value from 8 on shifts by 8 (44_shift_rotate.md R281). -/
theorem shiftCount_eq (x4 : BitVec 4) : shiftCount x4 = if 8 ≤ x4.toNat then 8 else x4.toNat := by
  revert x4; decide

theorem shiftCount_lt (x4 : BitVec 4) : shiftCount x4 < 32 := by
  rw [shiftCount_eq]; split <;> omega

/-- The register forms count with the low four bits of rs (44_shift_rotate.md R285). -/
theorem shiftCount_extractLsb' (x : Word) :
    shiftCount (x.extractLsb' 0 4) = if 8 ≤ x.toNat % 16 then 8 else x.toNat % 16 := by
  rw [shiftCount_eq, BitVec.extractLsb'_toNat, Nat.shiftRight_zero]

/-! ### The word operations in arithmetic -/

section
variable (v : Word)

theorem srl_eq (n : Nat) : srl v n = BitVec.ofNat 32 (v.toNat / 2 ^ n) := by
  rw [← Nat.shiftRight_eq_div_pow, ← BitVec.toNat_ushiftRight, BitVec.ofNat_toNat, BitVec.setWidth_eq, srl]

theorem sll_eq (n : Nat) : sll v n = BitVec.ofNat 32 (v.toNat * 2 ^ n) := by
  rw [← Nat.shiftLeft_eq]; rfl

theorem sla_eq (n : Nat) : sla v n = BitVec.ofNat 32 (v.toNat * 2 ^ n) := sll_eq v n

theorem sra_eq (n : Nat) : sra v n = BitVec.ofInt 32 (Int.fdiv v.toInt (2 ^ n)) := by
  rw [Int.fdiv_eq_ediv_of_nonneg _ (by positivity), sra, BitVec.sshiftRight_eq, Int.shiftRight_eq_div_pow,
    Nat.cast_pow, Nat.cast_ofNat]

/-- The two parts of a rotation do not overlap, so joining them adds them. -/
theorem shiftLeft_or_ushiftRight {a b : Nat} (h : b + a = 32) :
    v <<< a ||| v >>> b = BitVec.ofNat 32 (v.toNat * 2 ^ a + v.toNat / 2 ^ b) := by
  have hpow : 2 ^ b * 2 ^ a = 2 ^ 32 := by rw [← pow_add, h]
  have hlow : v.toNat >>> b < 2 ^ a := by
    rw [Nat.shiftRight_eq_div_pow]
    exact Nat.div_lt_of_lt_mul (hpow ▸ v.isLt)
  have hhigh : v.toNat <<< a % 2 ^ 32 = (v.toNat % 2 ^ b) <<< a := by
    rw [Nat.shiftLeft_eq, Nat.shiftLeft_eq, ← hpow, Nat.mul_mod_mul_right]
  have hjoin : (v <<< a ||| v >>> b).toNat = v.toNat <<< a % 2 ^ 32 + v.toNat >>> b := by
    rw [BitVec.toNat_or, BitVec.toNat_shiftLeft, BitVec.toNat_ushiftRight, hhigh, Nat.shiftLeft_add_eq_or_of_lt hlow]
  apply BitVec.eq_of_toNat_eq
  rw [BitVec.toNat_ofNat, ← Nat.shiftLeft_eq, ← Nat.shiftRight_eq_div_pow, ← Nat.mod_add_mod, ← hjoin,
    Nat.mod_eq_of_lt (BitVec.isLt _)]

theorem rl_eq {n : Nat} (h : n < 32) : rl v n = BitVec.ofNat 32 (v.toNat * 2 ^ n + v.toNat / 2 ^ (32 - n)) := by
  rw [rl, BitVec.rotateLeft_def, Nat.mod_eq_of_lt h, shiftLeft_or_ushiftRight v (by omega)]

theorem rr_eq {n : Nat} (h : n < 32) :
    rr v n = BitVec.ofNat 32 (v.toNat / 2 ^ n + v.toNat % 2 ^ n * 2 ^ (32 - n)) := by
  have hpow : 2 ^ n * 2 ^ (32 - n) = 2 ^ 32 := by rw [← pow_add, Nat.add_sub_cancel' h.le]
  rw [rr, BitVec.rotateRight_def, Nat.mod_eq_of_lt h, BitVec.or_comm, shiftLeft_or_ushiftRight v (by omega)]
  apply BitVec.eq_of_toNat_eq
  rw [BitVec.toNat_ofNat, BitVec.toNat_ofNat, ← Nat.mul_mod_mul_right, hpow, Nat.add_mod_mod, Nat.add_comm]

end

/-! ### The twelve forms -/

/-- The six operations (44_shift_rotate.md R283), in the order of their instructions (R284 to R295). -/
def shiftOps : List (Word → Nat → Word) := [srl, sll, sra, sla, rr, rl]

/-- What the six operations give for `v` and the count `n`, in arithmetic. -/
def shiftValues (v : Word) (n : Nat) : List Word :=
  [BitVec.ofNat 32 (v.toNat / 2 ^ n), BitVec.ofNat 32 (v.toNat * 2 ^ n),
    BitVec.ofInt 32 (Int.fdiv v.toInt (2 ^ n)), BitVec.ofNat 32 (v.toNat * 2 ^ n),
    BitVec.ofNat 32 (v.toNat / 2 ^ n + v.toNat % 2 ^ n * 2 ^ (32 - n)),
    BitVec.ofNat 32 (v.toNat * 2 ^ n + v.toNat / 2 ^ (32 - n))]

theorem map_shiftOps (v : Word) {n : Nat} (h : n < 32) : (shiftOps.map fun op => op v n) = shiftValues v n := by
  simp only [shiftOps, List.map_cons, List.map_nil, srl_eq, sll_eq, sra_eq, sla_eq, rr_eq v h, rl_eq v h, shiftValues]

/-- The instruction does nothing but write the result to rd with its Z and N (44_shift_rotate.md R282). -/
def GivesResult (s : State) (rd : Reg) (i : Instr) (res : Word) : Prop :=
  exec i s = .next (s.resultZN rd res)

theorem exec_shiftImm (s : State) (rd : Reg) (imm4 : BitVec 4) :
    List.Forall₂ (GivesResult s rd)
      [.srlImm rd imm4, .sllImm rd imm4, .sraImm rd imm4, .slaImm rd imm4, .rrImm rd imm4, .rlImm rd imm4]
      (shiftOps.map fun op => op (s.reg rd) (shiftCount imm4)) :=
  .cons rfl (.cons rfl (.cons rfl (.cons rfl (.cons rfl (.cons rfl .nil)))))

theorem exec_shiftReg (s : State) (rd rs : Reg) :
    List.Forall₂ (GivesResult s rd)
      [.srlReg rd rs, .sllReg rd rs, .sraReg rd rs, .slaReg rd rs, .rrReg rd rs, .rlReg rd rs]
      (shiftOps.map fun op => op (s.reg rd) (shiftCount ((s.reg rs).extractLsb' 0 4))) :=
  .cons rfl (.cons rfl (.cons rfl (.cons rfl (.cons rfl (.cons rfl .nil)))))

/-- An instruction that gives a result with Z and N does what a shift or rotation has to do. -/
theorem GivesResult.completes {s : State} {rd : Reg} {i : Instr} {res : Word} (h : GivesResult s rd i res) :
    ∃ t, exec i s = .next t ∧ t.reg rd = res ∧ (t.psr.getLsbD 1 = true ↔ res = 0#32) ∧
      t.psr.getLsbD 0 = res.getLsbD 31 ∧ QuietFrame [rd] [0, 1] [] s t ∧ Advanced s t :=
  ⟨_, h, s.resultZN_reg_self rd res, s.resultZN_z_iff rd res, s.resultZN_n rd res, quietFrame_resultZN s rd res,
    advanced_resultZN s rd res⟩

/-- Settles O34: one row of six forms for each source of the count; the count by `shiftCount_eq`, the values by
`map_shiftOps`, the flags and the frame by `GivesResult.completes`. -/
theorem shiftResults : Obligations.ShiftResults := by
  intro s rd rs imm4
  have himm := exec_shiftImm s rd imm4
  have hreg := exec_shiftReg s rd rs
  rw [map_shiftOps _ (shiftCount_lt _), shiftCount_eq] at himm
  rw [map_shiftOps _ (shiftCount_lt _), shiftCount_extractLsb'] at hreg
  simp only [List.forall_mem_cons]
  refine ⟨?imm, ?reg, List.forall_mem_nil _⟩
  case imm => exact fun p hp => (List.forall₂_zip himm hp).completes
  case reg => exact fun p hp => (List.forall₂_zip hreg hp).completes

end Sys2Proof.Machine

/-! SUPPORT. The codes (30_encoding.md R100 to R134): the fields of a code in each format, then the decoder after the encoder, the encoder after the decoder, and the refused codes. -/

namespace Sys2Proof

open Machine (toNat_append_field)

/-! ### Fields -/

theorem regBits_regField (w : BitVec 16) (lo : Nat) : regBits (regField w lo) = w.extractLsb' lo 4 := rfl

theorem regField_eq {w : BitVec 16} {lo : Nat} {r : Reg} (h : w.extractLsb' lo 4 = regBits r) : regField w lo = r := by
  rw [regField, h, regBits]


/-- A field of a code in arithmetic. -/
theorem toNat_field (w : BitVec 16) (lo n : Nat) : (w.extractLsb' lo n).toNat = w.toNat / 2 ^ lo % 2 ^ n := by
  rw [BitVec.extractLsb'_toNat, Nat.shiftRight_eq_div_pow]

section
variable {w : BitVec 16}

/-- The fields of `op %rd,%rs` and of every other code of two 4-bit fields. -/
theorem fields_8_4_4 (h : BitVec 8) (x y : BitVec 4) (hw : w = h ++ x ++ y) :
    w.extractLsb' 13 3 = h.extractLsb' 5 3 ∧
      w.extractLsb' 10 3 = h.extractLsb' 2 3 ∧
      w.extractLsb' 8 2 = h.extractLsb' 0 2 ∧
      w.extractLsb' 4 4 = x ∧
      w.extractLsb' 0 4 = y := by
  subst hw
  refine ⟨?_, ?_, ?_, ?_, ?_⟩ <;> apply BitVec.eq_of_toNat_eq <;>
    simp only [BitVec.extractLsb'_toNat, Nat.shiftRight_eq_div_pow, toNat_append_field] <;> omega

/-- The fields of `%rd,imm6` and `[%sp+imm6]`. -/
theorem fields_6_6_4 (h x : BitVec 6) (y : BitVec 4) (hw : w = h ++ x ++ y) :
    w.extractLsb' 13 3 = h.extractLsb' 3 3 ∧
      w.extractLsb' 10 3 = h.extractLsb' 0 3 ∧
      w.extractLsb' 4 6 = x ∧
      w.extractLsb' 0 4 = y := by
  subst hw
  refine ⟨?_, ?_, ?_, ?_⟩ <;> apply BitVec.eq_of_toNat_eq <;>
    simp only [BitVec.extractLsb'_toNat, Nat.shiftRight_eq_div_pow, toNat_append_field] <;> omega

/-- The fields of `%sp,imm10`. -/
theorem fields_6_10 (h : BitVec 6) (x : BitVec 10) (hw : w = h ++ x) :
    w.extractLsb' 13 3 = h.extractLsb' 3 3 ∧
      w.extractLsb' 10 3 = h.extractLsb' 0 3 ∧
      w.extractLsb' 0 10 = x := by
  subst hw
  refine ⟨?_, ?_, ?_⟩ <;> apply BitVec.eq_of_toNat_eq <;>
    simp only [BitVec.extractLsb'_toNat, Nat.shiftRight_eq_div_pow, toNat_append_field] <;> omega

/-- The fields of `[%rb],imm3`. -/
theorem fields_8_4_1_3 (h : BitVec 8) (x : BitVec 4) (b : BitVec 1) (y : BitVec 3) (hw : w = h ++ x ++ b ++ y) :
    w.extractLsb' 13 3 = h.extractLsb' 5 3 ∧
      w.extractLsb' 10 3 = h.extractLsb' 2 3 ∧
      w.extractLsb' 8 2 = h.extractLsb' 0 2 ∧
      w.extractLsb' 4 4 = x ∧
      w.extractLsb' 3 1 = b ∧
      w.extractLsb' 0 3 = y := by
  subst hw
  refine ⟨?_, ?_, ?_, ?_, ?_, ?_⟩ <;> apply BitVec.eq_of_toNat_eq <;>
    simp only [BitVec.extractLsb'_toNat, Nat.shiftRight_eq_div_pow, toNat_append_field] <;> omega

/-- The fields of `%sd,%rs`. -/
theorem fields_8_4_2_2 (h : BitVec 8) (x : BitVec 4) (b y : BitVec 2) (hw : w = h ++ x ++ b ++ y) :
    w.extractLsb' 13 3 = h.extractLsb' 5 3 ∧
      w.extractLsb' 10 3 = h.extractLsb' 2 3 ∧
      w.extractLsb' 8 2 = h.extractLsb' 0 2 ∧
      w.extractLsb' 4 4 = x ∧
      w.extractLsb' 0 4 = b ++ y := by
  subst hw
  refine ⟨?_, ?_, ?_, ?_, ?_⟩ <;> apply BitVec.eq_of_toNat_eq <;>
    simp only [BitVec.extractLsb'_toNat, Nat.shiftRight_eq_div_pow, toNat_append_field] <;> omega

/-- The fields of `%rd,%ss`. -/
theorem fields_10_2_4 (h : BitVec 10) (x : BitVec 2) (y : BitVec 4) (hw : w = h ++ x ++ y) :
    w.extractLsb' 13 3 = h.extractLsb' 7 3 ∧
      w.extractLsb' 10 3 = h.extractLsb' 4 3 ∧
      w.extractLsb' 8 2 = h.extractLsb' 2 2 ∧
      w.extractLsb' 4 4 = h.extractLsb' 0 2 ++ x ∧
      w.extractLsb' 0 4 = y := by
  subst hw
  refine ⟨?_, ?_, ?_, ?_, ?_⟩ <;> apply BitVec.eq_of_toNat_eq <;>
    simp only [BitVec.extractLsb'_toNat, Nat.shiftRight_eq_div_pow, toNat_append_field] <;> omega

/-- The fields of the PC-relative branches. -/
theorem fields_8_8 (h x : BitVec 8) (hw : w = h ++ x) :
    w.extractLsb' 13 3 = h.extractLsb' 5 3 ∧
      w.extractLsb' 9 4 = h.extractLsb' 1 4 ∧
      w.extractLsb' 8 1 = h.extractLsb' 0 1 ∧
      w.extractLsb' 0 8 = x := by
  subst hw
  refine ⟨?_, ?_, ?_, ?_⟩ <;> apply BitVec.eq_of_toNat_eq <;>
    simp only [BitVec.extractLsb'_toNat, Nat.shiftRight_eq_div_pow, toNat_append_field] <;> omega

/-- The fields of the class 0 codes with one register. -/
theorem fields_12_4 (h : BitVec 12) (y : BitVec 4) (hw : w = h ++ y) :
    w.extractLsb' 13 3 = h.extractLsb' 9 3 ∧
      w.extractLsb' 9 4 = h.extractLsb' 5 4 ∧
      w.extractLsb' 9 2 = h.extractLsb' 5 2 ∧
      w.extractLsb' 8 1 = h.extractLsb' 4 1 ∧
      w.extractLsb' 6 2 = h.extractLsb' 2 2 ∧
      w.extractLsb' 4 2 = h.extractLsb' 0 2 ∧
      w.extractLsb' 0 4 = y := by
  subst hw
  refine ⟨?_, ?_, ?_, ?_, ?_, ?_, ?_⟩ <;> apply BitVec.eq_of_toNat_eq <;>
    simp only [BitVec.extractLsb'_toNat, Nat.shiftRight_eq_div_pow, toNat_append_field] <;> omega

/-- The fields of `int imm2`. -/
theorem fields_14_2 (h : BitVec 14) (y : BitVec 2) (hw : w = h ++ y) :
    w.extractLsb' 13 3 = h.extractLsb' 11 3 ∧
      w.extractLsb' 9 4 = h.extractLsb' 7 4 ∧
      w.extractLsb' 9 2 = h.extractLsb' 7 2 ∧
      w.extractLsb' 8 1 = h.extractLsb' 6 1 ∧
      w.extractLsb' 6 2 = h.extractLsb' 4 2 ∧
      w.extractLsb' 2 4 = h.extractLsb' 0 4 ∧
      w.extractLsb' 0 2 = y := by
  subst hw
  refine ⟨?_, ?_, ?_, ?_, ?_, ?_, ?_⟩ <;> apply BitVec.eq_of_toNat_eq <;>
    simp only [BitVec.extractLsb'_toNat, Nat.shiftRight_eq_div_pow, toNat_append_field] <;> omega

/-- The fields of `ext imm13`. -/
theorem fields_3_13 (h : BitVec 3) (x : BitVec 13) (hw : w = h ++ x) :
    w.extractLsb' 13 3 = h ∧
      w.extractLsb' 0 13 = x := by
  subst hw
  refine ⟨?_, ?_⟩ <;> apply BitVec.eq_of_toNat_eq <;>
    simp only [BitVec.extractLsb'_toNat, Nat.shiftRight_eq_div_pow, toNat_append_field] <;> omega

end

/-- The d bit of class 0 from its field. -/
theorem getElem_eight_of_field {w : BitVec 16} {b : BitVec 1} (h : w.extractLsb' 8 1 = b) : w[8] = b.getLsbD 0 := by
  rw [← h, BitVec.getLsbD_extractLsb', ← BitVec.getLsbD_eq_getElem]; rfl

/-! ### The decoder after the encoder -/

@[simp] theorem specialRegOf_specialRegBits (r : SpecialReg) : specialRegOf (0b00#2 ++ specialRegBits r) = .ok r := by
  cases r <;> rfl

/-- Settles O1: the fields of the code by its format, and by them the row of its class. -/
theorem decodeOfEncode : Obligations.DecodeOfEncode := by
  intro i
  generalize hw : encode i = w
  cases i
  case nop | slp | halt | brk | retd | reti | ret | retDelayed => subst hw; rfl
  case ext =>
    obtain ⟨hclass, himm⟩ := fields_3_13 _ _ hw.symm
    simp [decode, hclass, himm, -BitVec.extractLsb'_toNat]
  case jrgt | jrge | jrlt | jrle | jrugt | jruge | jrult | jrule | jreq | jrne | call | jp | jrgtDelayed | jrgeDelayed
      | jrltDelayed | jrleDelayed | jrugtDelayed | jrugeDelayed | jrultDelayed | jruleDelayed | jreqDelayed
      | jrneDelayed | callDelayed | jpDelayed =>
    obtain ⟨hclass, hop1, hd, hsign⟩ := fields_8_8 _ _ hw.symm
    simp [decode, decodeClass0, hclass, hop1, getElem_eight_of_field hd, hsign, -BitVec.extractLsb'_toNat]
  case pushn | popn | callReg | callRegDelayed | jpReg | jpRegDelayed =>
    obtain ⟨hclass, hop, hop1, hd, hop2, hzero, hreg⟩ := fields_12_4 _ _ hw.symm
    simp [decode, decodeClass0, decodeClass0a, requireZero, hclass, hop, hop1, getElem_eight_of_field hd, hop2, hzero,
      regField_eq hreg, -BitVec.extractLsb'_toNat]
  case int =>
    obtain ⟨hclass, hop, hop1, hd, hop2, hzero, himm⟩ := fields_14_2 _ _ hw.symm
    simp [decode, decodeClass0, decodeClass0a, requireZero, hclass, hop, hop1, getElem_eight_of_field hd, hop2, hzero, himm,
      -BitVec.extractLsb'_toNat]
  case ldBInd | ldBPost | addReg | ldUbInd | ldUbPost | subReg | ldHInd | ldHPost | cmpReg | ldUhInd | ldUhPost | ldWReg
      | ldWInd | ldWPost | andReg | stBInd | stBPost | orReg | stHInd | stHPost | xorReg | stWInd | stWPost | notReg =>
    obtain ⟨hclass, hop1, hop2, hhigh, hlow⟩ := fields_8_4_4 _ _ _ hw.symm
    simp [decode, decodeClass1, hclass, hop1, hop2, regField_eq hhigh, regField_eq hlow, -BitVec.extractLsb'_toNat]
  case ldBSp | ldUbSp | ldHSp | ldUhSp | ldWSp | stBSp | stHSp | stWSp =>
    obtain ⟨hclass, hop, himm, hlow⟩ := fields_6_6_4 _ _ _ hw.symm
    simp [decode, decodeClass2, hclass, hop, himm, regField_eq hlow, -BitVec.extractLsb'_toNat]
  case addImm | subImm | cmpImm | ldWImm | andImm | orImm | xorImm | notImm =>
    obtain ⟨hclass, hop, himm, hlow⟩ := fields_6_6_4 _ _ _ hw.symm
    simp [decode, decodeClass3, hclass, hop, himm, regField_eq hlow, -BitVec.extractLsb'_toNat]
  case addSp | subSp =>
    obtain ⟨hclass, hop, himm⟩ := fields_6_10 _ _ hw.symm
    simp [decode, decodeClass4, hclass, hop, himm, -BitVec.extractLsb'_toNat]
  case srlImm | sllImm | sraImm | slaImm | rrImm | rlImm =>
    obtain ⟨hclass, hop1, hop2, himm, hlow⟩ := fields_8_4_4 _ _ _ hw.symm
    simp [decode, decodeClass4, hclass, hop1, hop2, himm, regField_eq hlow, -BitVec.extractLsb'_toNat]
  case srlReg | scan0 | sllReg | scan1 | sraReg | swap | slaReg | mirror | rrReg | rlReg =>
    obtain ⟨hclass, hop1, hop2, hhigh, hlow⟩ := fields_8_4_4 _ _ _ hw.symm
    simp [decode, decodeClass4, hclass, hop1, hop2, regField_eq hhigh, regField_eq hlow, -BitVec.extractLsb'_toNat]
  case div0s | div0u | div1 | div2s =>
    obtain ⟨hclass, hop1, hop2, hhigh, hlow⟩ := fields_8_4_4 _ _ _ hw.symm
    simp [decode, decodeClass4, requireZero, hclass, hop1, hop2, regField_eq hhigh, hlow, -BitVec.extractLsb'_toNat]
  case div3s =>
    obtain ⟨hclass, hop1, hop2, hhigh, hlow⟩ := fields_8_4_4 _ _ _ hw.symm
    simp [decode, decodeClass4, requireZero, hclass, hop1, hop2, hhigh, hlow, -BitVec.extractLsb'_toNat]
  case ldBReg | mltH | ldUbReg | mltuH | ldHReg | mltW | ldUhReg | mltuW | adc | sbc =>
    obtain ⟨hclass, hop1, hop2, hhigh, hlow⟩ := fields_8_4_4 _ _ _ hw.symm
    simp [decode, decodeClass5, hclass, hop1, hop2, regField_eq hhigh, regField_eq hlow, -BitVec.extractLsb'_toNat]
  case mac =>
    obtain ⟨hclass, hop1, hop2, hhigh, hlow⟩ := fields_8_4_4 _ _ _ hw.symm
    simp [decode, decodeClass5, requireZero, hclass, hop1, hop2, regField_eq hhigh, hlow, -BitVec.extractLsb'_toNat]
  case btst | bclr | bset | bnot =>
    obtain ⟨hclass, hop1, hop2, hhigh, hzero, himm⟩ := fields_8_4_1_3 _ _ _ _ hw.symm
    simp [decode, decodeClass5, requireZero, hclass, hop1, hop2, regField_eq hhigh, hzero, himm, -BitVec.extractLsb'_toNat]
  case ldWToSpecial =>
    obtain ⟨hclass, hop1, hop2, hhigh, hlow⟩ := fields_8_4_2_2 _ _ _ _ hw.symm
    simp [decode, decodeClass5, hclass, hop1, hop2, regField_eq hhigh, hlow, Except.map, -BitVec.extractLsb'_toNat]
  case ldWFromSpecial =>
    obtain ⟨hclass, hop1, hop2, hhigh, hlow⟩ := fields_10_2_4 _ _ _ hw.symm
    simp [decode, decodeClass5, hclass, hop1, hop2, hhigh, regField_eq hlow, Except.map, -BitVec.extractLsb'_toNat]

/-! ### The encoder after the decoder -/

/-- The d bit of class 0 in arithmetic. -/
theorem getLsbD_eight (w : BitVec 16) : w.getLsbD 8 = true ↔ w.toNat / 2 ^ 8 % 2 = 1 := by
  rw [BitVec.getLsbD, Nat.testBit_eq_decide_div_mod_eq, decide_eq_true_eq]

theorem requireZero_eq_ok {n : Nat} {bits : BitVec n} {i j : Instr} :
    requireZero bits i = .ok j ↔ bits = 0#n ∧ i = j := by
  unfold requireZero; split <;> simp_all

theorem requireZero_eq_error {n : Nat} {bits : BitVec n} {i : Instr} {e : DecodeError} :
    requireZero bits i = .error e ↔ bits ≠ 0#n ∧ .fixedBitSet = e := by
  unfold requireZero; split <;> simp_all

theorem specialRegOf_eq_ok {f : BitVec 4} {r : SpecialReg} : specialRegOf f = .ok r ↔ f = 0b00#2 ++ specialRegBits r := by
  revert f; cases r <;> decide

theorem specialRegOf_eq_error {f : BitVec 4} {e : DecodeError} :
    specialRegOf f = .error e ↔ 4 ≤ f.toNat ∧ .reservedSpecialRegister = e := by
  revert f; cases e <;> decide

theorem except_map_eq_ok {ε α β : Type} {f : α → β} {x : Except ε α} {b : β} :
    x.map f = .ok b ↔ ∃ a, x = .ok a ∧ f a = b := by
  cases x <;> simp [Except.map]

theorem except_map_eq_error {ε α β : Type} {f : α → β} {x : Except ε α} {e : ε} :
    x.map f = .error e ↔ x = .error e := by
  cases x <;> simp [Except.map]

section
variable {w : BitVec 16} {i : Instr}

theorem encode_of_decodeClass0a (hc : (w.extractLsb' 13 3).toNat = 0) (hop : (w.extractLsb' 9 4).toNat < 4)
    (h : decodeClass0a w = .ok i) : encode i = w := by
  unfold decodeClass0a at h
  simp only [getLsbD_eight] at h
  split at h
  case h_13 => exact absurd h (by simp)
  all_goals
    split_ifs at h
    all_goals
      simp only [requireZero_eq_ok, ← BitVec.toNat_inj] at h
      obtain ⟨hzero, rfl⟩ := h
      apply BitVec.eq_of_toNat_eq
      simp only [encode, toNat_append_field, regBits_regField, toNat_field, BitVec.toNat_ofNat] at *
      omega

theorem encode_of_decodeClass0 (hc : (w.extractLsb' 13 3).toNat = 0) (h : decodeClass0 w = .ok i) : encode i = w := by
  unfold decodeClass0 at h
  simp only [getLsbD_eight] at h
  split at h
  case h_13 =>
    refine encode_of_decodeClass0a hc ?_ h
    have := (w.extractLsb' 9 4).isLt
    simp only [imp_false] at *
    omega
  all_goals
    split_ifs at h
    all_goals
      obtain rfl := Except.ok.inj h
      apply BitVec.eq_of_toNat_eq
      simp only [encode, toNat_append_field, toNat_field, BitVec.toNat_ofNat] at *
      omega

theorem encode_of_decodeClass1 (hc : (w.extractLsb' 13 3).toNat = 1) (h : decodeClass1 w = .ok i) : encode i = w := by
  unfold decodeClass1 at h
  dsimp only at h
  split at h
  case h_25 => exact absurd h (by simp)
  all_goals
    cases h
    apply BitVec.eq_of_toNat_eq
    simp only [encode, toNat_append_field, regBits_regField, toNat_field, BitVec.toNat_ofNat] at *
    omega

theorem encode_of_decodeClass2 (hc : (w.extractLsb' 13 3).toNat = 2) (h : decodeClass2 w = .ok i) : encode i = w := by
  have hop := (w.extractLsb' 10 3).isLt
  unfold decodeClass2 at h
  dsimp only at h
  split at h
  all_goals
    cases h
    apply BitVec.eq_of_toNat_eq
    simp only [encode, toNat_append_field, regBits_regField, toNat_field, BitVec.toNat_ofNat, imp_false] at *
    omega

theorem encode_of_decodeClass3 (hc : (w.extractLsb' 13 3).toNat = 3) (h : decodeClass3 w = .ok i) : encode i = w := by
  have hop := (w.extractLsb' 10 3).isLt
  unfold decodeClass3 at h
  dsimp only at h
  split at h
  all_goals
    cases h
    apply BitVec.eq_of_toNat_eq
    simp only [encode, toNat_append_field, regBits_regField, toNat_field, BitVec.toNat_ofNat, imp_false] at *
    omega

theorem encode_of_decodeClass4 (hc : (w.extractLsb' 13 3).toNat = 4) (h : decodeClass4 w = .ok i) : encode i = w := by
  unfold decodeClass4 at h
  dsimp only at h
  split at h
  case h_24 => exact absurd h (by simp)
  all_goals
    simp only [requireZero_eq_ok, Except.ok.injEq, ← BitVec.toNat_inj] at h
    obtain ⟨hzero, rfl⟩ := h
    apply BitVec.eq_of_toNat_eq
    simp only [encode, toNat_append_field, regBits_regField, toNat_field, BitVec.toNat_ofNat] at *
    omega

theorem encode_of_decodeClass5 (hc : (w.extractLsb' 13 3).toNat = 5) (h : decodeClass5 w = .ok i) : encode i = w := by
  unfold decodeClass5 at h
  dsimp only at h
  split at h
  case h_18 => exact absurd h (by simp)
  all_goals
    simp only [requireZero_eq_ok, except_map_eq_ok, specialRegOf_eq_ok, Except.ok.injEq,
      ← BitVec.toNat_inj] at h
    obtain ⟨r, hr, rfl⟩ := h
    apply BitVec.eq_of_toNat_eq
    simp only [encode, toNat_append_field, regBits_regField, toNat_field, BitVec.toNat_ofNat] at *
    omega

end

/-- Settles O2: class by class. -/
theorem encodeOfDecode : Obligations.EncodeOfDecode := by
  intro w i h
  unfold decode at h
  split at h
  case h_1 hc => exact encode_of_decodeClass0 hc h
  case h_2 hc => exact encode_of_decodeClass1 hc h
  case h_3 hc => exact encode_of_decodeClass2 hc h
  case h_4 hc => exact encode_of_decodeClass3 hc h
  case h_5 hc => exact encode_of_decodeClass4 hc h
  case h_6 hc => exact encode_of_decodeClass5 hc h
  case h_7 hc =>
    obtain rfl := Except.ok.inj h
    apply BitVec.eq_of_toNat_eq
    simp only [encode, toNat_append_field, toNat_field, BitVec.toNat_ofNat] at *
    omega
  case h_8 => exact absurd h (by simp)

/-! ### Refused codes -/

/-- The bits of a byte under the masks of the tables of rows. -/
theorem byte_and_masks : ∀ b : BitVec 8,
    (b &&& 0xFE#8).toNat = b.toNat / 2 * 2 ∧ (b &&& 0xFB#8).toNat = b.toNat / 8 * 8 + b.toNat % 4 ∧
    (b &&& 0xE3#8).toNat = b.toNat / 32 * 32 + b.toNat % 4 ∧ (b &&& 0xFF#8).toNat = b.toNat ∧
    (b &&& 0xF3#8).toNat = b.toNat / 16 * 16 + b.toNat % 4 ∧ (b &&& 0x01#8).toNat = b.toNat % 2 ∧
    (b &&& 0x00#8).toNat = 0 ∧ (b &&& 0xC0#8).toNat = b.toNat / 64 * 64 ∧ (b &&& 0x80#8).toNat = b.toNat / 128 * 128 ∧
    (b &&& 0x3F#8).toNat = b.toNat % 64 ∧ (b &&& 0x30#8).toNat = b.toNat % 64 / 16 * 16 ∧
    (b &&& 0x3C#8).toNat = b.toNat % 64 / 4 * 4 ∧ (b &&& 0x0F#8).toNat = b.toNat % 16 ∧
    (b &&& 0x08#8).toNat = b.toNat % 16 / 8 * 8 := by decide

/-- A code under a mask, byte by byte. -/
theorem and_eq_iff (w m v : BitVec 16) : w &&& m = v ↔
    (w.extractLsb' 8 8 &&& m.extractLsb' 8 8).toNat = v.toNat / 256 ∧
      (w.extractLsb' 0 8 &&& m.extractLsb' 0 8).toNat = v.toNat % 256 := by
  rw [← BitVec.extractLsb'_and, ← BitVec.extractLsb'_and, toNat_field, toNat_field, ← BitVec.toNat_inj]
  omega

/-- The masks of the rows in arithmetic. -/
theorem and_masks_iff (w v : BitVec 16) :
    (w &&& 0xFEC0#16 = v ↔ w.toNat / 512 * 512 + w.toNat / 64 % 4 * 64 = v.toNat) ∧
    (w &&& 0xFE80#16 = v ↔ w.toNat / 512 * 512 + w.toNat / 128 % 2 * 128 = v.toNat) ∧
    (w &&& 0xE300#16 = v ↔ w.toNat / 8192 * 8192 + w.toNat / 256 % 4 * 256 = v.toNat) ∧
    (w &&& 0xFB00#16 = v ↔ w.toNat / 2048 * 2048 + w.toNat / 256 % 4 * 256 = v.toNat) ∧
    (w &&& 0xFF00#16 = v ↔ w.toNat / 256 * 256 = v.toNat) ∧
    (w &&& 0xF300#16 = v ↔ w.toNat / 4096 * 4096 + w.toNat / 256 % 4 * 256 = v.toNat) ∧
    (w &&& 0x013F#16 = v ↔ w.toNat / 256 % 2 * 256 + w.toNat % 64 = v.toNat) ∧
    (w &&& 0x0130#16 = v ↔ w.toNat / 256 % 2 * 256 + w.toNat / 16 % 4 * 16 = v.toNat) ∧
    (w &&& 0x013C#16 = v ↔ w.toNat / 256 % 2 * 256 + w.toNat / 4 % 16 * 4 = v.toNat) ∧
    (w &&& 0x0030#16 = v ↔ w.toNat / 16 % 4 * 16 = v.toNat) ∧
    (w &&& 0x003F#16 = v ↔ w.toNat % 64 = v.toNat) ∧
    (w &&& 0x000F#16 = v ↔ w.toNat % 16 = v.toNat) ∧
    (w &&& 0x0008#16 = v ↔ w.toNat / 8 % 2 * 8 = v.toNat) := by
  have hw := w.isLt
  have hv := v.isLt
  obtain ⟨hFE, hFB, hE3, hFF, hF3, h01, h00', -⟩ := byte_and_masks (w.extractLsb' 8 8)
  obtain ⟨-, -, -, -, -, -, h00, hC0, h80, h3F, h30, h3C, h0F, h08⟩ := byte_and_masks (w.extractLsb' 0 8)
  simp only [and_eq_iff, BitVec.reduceExtractLsb', hFE, hFB, hE3, hFF, hF3, h01, h00', h00, hC0, h80, h3F, h30, h3C, h0F,
    h08, toNat_field]
  clear hFE hFB hE3 hFF hF3 h01 h00' h00 hC0 h80 h3F h30 h3C h0F h08
  refine ⟨?_, ?_, ?_, ?_, ?_, ?_, ?_, ?_, ?_, ?_, ?_, ?_, ?_⟩ <;> omega

section
variable {w : BitVec 16}

/-- The two operation fields of classes 1, 4 and 5. -/
theorem operation_fields (w : BitVec 16) : (∃ a : Fin 8, (w.extractLsb' 10 3).toNat = a.val) ∧
    ∃ b : Fin 4, (w.extractLsb' 8 2).toNat = b.val :=
  ⟨⟨⟨_, (w.extractLsb' 10 3).isLt⟩, rfl⟩, ⟨⟨_, (w.extractLsb' 8 2).isLt⟩, rfl⟩⟩

/-- A row of class 0 whose d bit is 0. -/
theorem ite_requireZero_eq_error {c : Prop} [Decidable c] {n : Nat} {bits : BitVec n} {i : Instr} {e : DecodeError} :
    (if c then .error .fixedBitSet else requireZero bits i) = .error e ↔ .fixedBitSet = e ∧ (c ∨ bits ≠ 0#n) := by
  split <;> simp_all [requireZero_eq_error, and_comm]

/-- The operation fields of the low rows of class 0. -/
theorem operation_fields_0a (w : BitVec 16) : (∃ a : Fin 4, (w.extractLsb' 9 2).toNat = a.val) ∧
    ∃ b : Fin 4, (w.extractLsb' 6 2).toNat = b.val :=
  ⟨⟨⟨_, (w.extractLsb' 9 2).isLt⟩, rfl⟩, ⟨⟨_, (w.extractLsb' 6 2).isLt⟩, rfl⟩⟩

theorem decodeClass0a_eq_reserved (hc : w.toNat / 2048 = 0) : decodeClass0a w = .error .reservedOperation ↔
    w.toNat / 512 = 0 ∧ w.toNat / 64 % 4 = 3 ∨ w.toNat / 512 = 1 ∧ w.toNat / 128 % 2 = 1 ∨
      w.toNat / 512 = 3 ∧ w.toNat / 64 % 4 = 3 := by
  obtain ⟨⟨a, ha⟩, ⟨b, hb⟩⟩ := operation_fields_0a w
  unfold decodeClass0a
  simp only [getLsbD_eight]
  rw [ha, hb]
  rw [toNat_field] at ha hb
  fin_cases a <;> fin_cases b <;> simp [ite_requireZero_eq_error, requireZero_eq_error] at * <;> omega

theorem decodeClass0a_eq_fixed (hc : w.toNat / 2048 = 0) : decodeClass0a w = .error .fixedBitSet ↔
      w.toNat / 512 = 0 ∧ w.toNat / 64 % 4 = 0 ∧ ¬(w.toNat / 256 % 2 = 0 ∧ w.toNat % 64 = 0) ∨
      w.toNat / 512 = 0 ∧ w.toNat / 64 % 4 = 1 ∧ ¬(w.toNat / 256 % 2 = 0 ∧ w.toNat % 64 = 0) ∨
      w.toNat / 512 = 0 ∧ w.toNat / 64 % 4 = 2 ∧ ¬(w.toNat / 256 % 2 = 0 ∧ w.toNat % 64 = 0) ∨
      w.toNat / 512 = 1 ∧ w.toNat / 64 % 4 = 0 ∧ ¬(w.toNat / 256 % 2 = 0 ∧ w.toNat / 16 % 4 = 0) ∨
      w.toNat / 512 = 1 ∧ w.toNat / 64 % 4 = 1 ∧ ¬(w.toNat / 256 % 2 = 0 ∧ w.toNat / 16 % 4 = 0) ∨
      w.toNat / 512 = 2 ∧ w.toNat / 64 % 4 = 0 ∧ ¬(w.toNat / 256 % 2 = 0 ∧ w.toNat % 64 = 0) ∨
      w.toNat / 512 = 2 ∧ w.toNat / 64 % 4 = 1 ∧ ¬(w.toNat / 256 % 2 = 0 ∧ w.toNat % 64 = 0) ∨
      w.toNat / 512 = 2 ∧ w.toNat / 64 % 4 = 2 ∧ ¬(w.toNat / 256 % 2 = 0 ∧ w.toNat / 4 % 16 = 0) ∨
      w.toNat / 512 = 2 ∧ w.toNat / 64 % 4 = 3 ∧ ¬(w.toNat / 256 % 2 = 0 ∧ w.toNat % 64 = 0) ∨
      w.toNat / 512 = 3 ∧ w.toNat / 64 % 4 = 0 ∧ w.toNat / 16 % 4 ≠ 0 ∨
      w.toNat / 512 = 3 ∧ w.toNat / 64 % 4 = 1 ∧ w.toNat % 64 ≠ 0 ∨
      w.toNat / 512 = 3 ∧ w.toNat / 64 % 4 = 2 ∧ w.toNat / 16 % 4 ≠ 0 := by
  obtain ⟨⟨a, ha⟩, ⟨b, hb⟩⟩ := operation_fields_0a w
  have ha' : w.toNat / 512 = a := by rw [← ha, toNat_field]; omega
  have hb' : w.toNat / 64 % 4 = b := by rw [← hb, toNat_field]; omega
  unfold decodeClass0a
  simp only [getLsbD_eight]
  rw [ha, hb, ha', hb']
  clear ha hb ha' hb'
  fin_cases a <;> fin_cases b <;>
    simp [requireZero_eq_error, ← BitVec.toNat_inj, toNat_field, -BitVec.extractLsb'_toNat]

theorem decodeClass0a_ne_error {e : DecodeError} (h1 : e ≠ .reservedOperation) (h2 : e ≠ .fixedBitSet) :
    decodeClass0a w ≠ .error e := by
  unfold decodeClass0a
  dsimp only
  split <;> simp [ite_requireZero_eq_error, requireZero_eq_error, h1.symm, h2.symm]

theorem decodeClass1_eq_error (e : DecodeError) : decodeClass1 w = .error e ↔
    .reservedOperation = e ∧ w.toNat / 256 % 4 = 3 := by
  obtain ⟨⟨a, ha⟩, ⟨b, hb⟩⟩ := operation_fields w
  unfold decodeClass1
  rw [ha, hb]
  rw [toNat_field] at ha hb
  cases e <;> fin_cases a <;> fin_cases b <;> simp at * <;> omega

theorem decodeClass4_eq_reserved (hc : w.toNat / 8192 = 4) : decodeClass4 w = .error .reservedOperation ↔
    w.toNat / 2048 = 0x13 ∧ w.toNat / 256 % 4 = 2 ∨ w.toNat / 256 = 0x9F := by
  obtain ⟨⟨a, ha⟩, ⟨b, hb⟩⟩ := operation_fields w
  unfold decodeClass4
  rw [ha, hb]
  rw [toNat_field] at ha hb
  fin_cases a <;> fin_cases b <;>
    simp [requireZero_eq_error, ← BitVec.toNat_inj, toNat_field, -BitVec.extractLsb'_toNat] at * <;> omega

theorem decodeClass4_eq_fixed (hc : w.toNat / 8192 = 4) : decodeClass4 w = .error .fixedBitSet ↔
    w.toNat / 256 = 0x8B ∧ w.toNat % 16 ≠ 0 ∨
      w.toNat / 256 = 0x8F ∧ w.toNat % 16 ≠ 0 ∨
      w.toNat / 256 = 0x93 ∧ w.toNat % 16 ≠ 0 ∨
      w.toNat / 256 = 0x97 ∧ w.toNat % 16 ≠ 0 ∨
      w.toNat / 256 = 0x9B ∧ w.toNat % 16 ≠ 0 := by
  obtain ⟨⟨a, ha⟩, ⟨b, hb⟩⟩ := operation_fields w
  unfold decodeClass4
  rw [ha, hb]
  rw [toNat_field] at ha hb
  fin_cases a <;> fin_cases b <;>
    simp [requireZero_eq_error, ← BitVec.toNat_inj, toNat_field, -BitVec.extractLsb'_toNat] at * <;> omega

theorem decodeClass4_ne_error {e : DecodeError} (h1 : e ≠ .reservedOperation) (h2 : e ≠ .fixedBitSet) :
    decodeClass4 w ≠ .error e := by
  unfold decodeClass4
  dsimp only
  split <;> simp [requireZero_eq_error, h1.symm, h2.symm]

theorem decodeClass5_eq_reserved (hc : w.toNat / 8192 = 5) : decodeClass5 w = .error .reservedOperation ↔
    w.toNat / 4096 = 0xB ∧ w.toNat / 256 % 4 = 1 ∨ w.toNat / 256 = 0xB6 ∨
      w.toNat / 2048 = 0x17 ∧ w.toNat / 256 % 4 = 2 ∨ w.toNat / 256 % 4 = 3 := by
  obtain ⟨⟨a, ha⟩, ⟨b, hb⟩⟩ := operation_fields w
  unfold decodeClass5
  rw [ha, hb]
  rw [toNat_field] at ha hb
  fin_cases a <;> fin_cases b <;>
    simp [requireZero_eq_error, except_map_eq_error, specialRegOf_eq_error, ← BitVec.toNat_inj, toNat_field,
      -BitVec.extractLsb'_toNat] at * <;> omega

theorem decodeClass5_eq_fixed (hc : w.toNat / 8192 = 5) : decodeClass5 w = .error .fixedBitSet ↔
    w.toNat / 256 = 0xB2 ∧ w.toNat % 16 ≠ 0 ∨
      w.toNat / 256 = 0xA8 ∧ w.toNat / 8 % 2 ≠ 0 ∨
      w.toNat / 256 = 0xAC ∧ w.toNat / 8 % 2 ≠ 0 ∨
      w.toNat / 256 = 0xB0 ∧ w.toNat / 8 % 2 ≠ 0 ∨
      w.toNat / 256 = 0xB4 ∧ w.toNat / 8 % 2 ≠ 0 := by
  obtain ⟨⟨a, ha⟩, ⟨b, hb⟩⟩ := operation_fields w
  unfold decodeClass5
  rw [ha, hb]
  rw [toNat_field] at ha hb
  fin_cases a <;> fin_cases b <;>
    simp [requireZero_eq_error, except_map_eq_error, specialRegOf_eq_error, ← BitVec.toNat_inj, toNat_field,
      -BitVec.extractLsb'_toNat] at * <;> omega

theorem decodeClass5_eq_special (hc : w.toNat / 8192 = 5) : decodeClass5 w = .error .reservedSpecialRegister ↔
    w.toNat / 256 = 0xA0 ∧ 4 ≤ w.toNat % 16 ∨ w.toNat / 256 = 0xA4 ∧ 4 ≤ w.toNat / 16 % 16 := by
  obtain ⟨⟨a, ha⟩, ⟨b, hb⟩⟩ := operation_fields w
  unfold decodeClass5
  rw [ha, hb]
  rw [toNat_field] at ha hb
  fin_cases a <;> fin_cases b <;>
    simp [requireZero_eq_error, except_map_eq_error, specialRegOf_eq_error, ← BitVec.toNat_inj, toNat_field,
      -BitVec.extractLsb'_toNat] at * <;> omega

theorem decodeClass5_ne_error {e : DecodeError} (h1 : e ≠ .reservedOperation) (h2 : e ≠ .fixedBitSet)
    (h3 : e ≠ .reservedSpecialRegister) : decodeClass5 w ≠ .error e := by
  unfold decodeClass5
  dsimp only
  split <;> simp [requireZero_eq_error, except_map_eq_error, specialRegOf_eq_error, h1.symm, h2.symm, h3.symm]

theorem decodeClass2_ne_error (e : DecodeError) : decodeClass2 w ≠ .error e := by
  unfold decodeClass2; dsimp only; split <;> simp

theorem decodeClass3_ne_error (e : DecodeError) : decodeClass3 w ≠ .error e := by
  unfold decodeClass3; dsimp only; split <;> simp

/-- Only the low rows of class 0 refuse a code. -/
theorem decodeClass0_eq_error (hc : w.toNat / 8192 = 0) (e : DecodeError) :
    decodeClass0 w = .error e ↔ w.toNat / 2048 = 0 ∧ decodeClass0a w = .error e := by
  have hop := toNat_field w 9 4
  have hlt := (w.extractLsb' 9 4).isLt
  unfold decodeClass0
  dsimp only
  split
  case h_13 =>
    simp only [imp_false] at *
    exact (and_iff_right (by omega)).symm
  all_goals
    simp only [reduceCtorEq, false_iff, not_and]
    intro h
    omega

/-- The decoder in each class. -/
theorem decode_class (w : BitVec 16) :
    w.toNat / 8192 = 0 ∧ decode w = decodeClass0 w ∨ w.toNat / 8192 = 1 ∧ decode w = decodeClass1 w ∨
      w.toNat / 8192 = 2 ∧ decode w = decodeClass2 w ∨ w.toNat / 8192 = 3 ∧ decode w = decodeClass3 w ∨
      w.toNat / 8192 = 4 ∧ decode w = decodeClass4 w ∨ w.toNat / 8192 = 5 ∧ decode w = decodeClass5 w ∨
      w.toNat / 8192 = 6 ∧ decode w = .ok (.ext (w.extractLsb' 0 13)) ∨
      w.toNat / 8192 = 7 ∧ decode w = .error .reservedClass := by
  have hw := w.isLt
  obtain ⟨c, hc⟩ : ∃ c : Fin 8, (w.extractLsb' 13 3).toNat = c.val := ⟨⟨_, (w.extractLsb' 13 3).isLt⟩, rfl⟩
  unfold decode
  rw [hc]
  rw [toNat_field] at hc
  fin_cases c <;> simp at * <;> omega


end
theorem decode_eq_reserved_iff (w : BitVec 16) :
    decode w = .error .reservedOperation ↔ ∃ p ∈ reservedRows, w &&& p.1 = p.2 := by
  have hw := w.isLt
  simp only [reservedRows, List.mem_cons, List.not_mem_nil, or_false, exists_eq_or_imp, exists_eq_left, and_masks_iff,
    BitVec.toNat_ofNat]
  obtain ⟨hc, hd⟩ | ⟨hc, hd⟩ | ⟨hc, hd⟩ | ⟨hc, hd⟩ | ⟨hc, hd⟩ | ⟨hc, hd⟩ | ⟨hc, hd⟩ | ⟨hc, hd⟩ := decode_class w <;>
    rw [hd]
  · by_cases h : w.toNat / 2048 = 0
    · rw [decodeClass0_eq_error hc, and_iff_right h, decodeClass0a_eq_reserved h]
      omega
    · simp only [decodeClass0_eq_error hc, h, false_and, false_iff]
      omega
  · simp only [decodeClass1_eq_error, true_and]
    omega
  · simp only [decodeClass2_ne_error, false_iff]
    omega
  · simp only [decodeClass3_ne_error, false_iff]
    omega
  · rw [decodeClass4_eq_reserved hc]
    omega
  · rw [decodeClass5_eq_reserved hc]
    omega
  · simp only [reduceCtorEq, false_iff]
    omega
  · simp only [Except.error.injEq, reduceCtorEq, false_iff]
    omega

/-- The rows with fixed 0 bits, class by class, in arithmetic. -/
theorem fixedZeroRows_iff (w : BitVec 16) : (∃ p ∈ fixedZeroRows, w &&& p.1 = p.2.1 ∧ w &&& p.2.2 ≠ 0#16) ↔
    (w.toNat / 2048 = 0 ∧ decodeClass0a w = .error .fixedBitSet) ∨
      (w.toNat / 8192 = 4 ∧ decodeClass4 w = .error .fixedBitSet) ∨
      (w.toNat / 8192 = 5 ∧ decodeClass5 w = .error .fixedBitSet) := by
  have hw := w.isLt
  rw [and_congr_right fun h => decodeClass0a_eq_fixed h, and_congr_right fun h => decodeClass4_eq_fixed h,
    and_congr_right fun h => decodeClass5_eq_fixed h]
  simp only [and_or_left, or_assoc]
  simp only [fixedZeroRows, List.mem_cons, List.not_mem_nil, or_false, exists_eq_or_imp, exists_eq_left, ne_eq,
    and_masks_iff, BitVec.toNat_ofNat]
  repeat' apply or_congr
  all_goals omega

theorem decode_eq_fixed_iff (w : BitVec 16) :
    decode w = .error .fixedBitSet ↔ ∃ p ∈ fixedZeroRows, w &&& p.1 = p.2.1 ∧ w &&& p.2.2 ≠ 0#16 := by
  rw [fixedZeroRows_iff]
  obtain ⟨hc, hd⟩ | ⟨hc, hd⟩ | ⟨hc, hd⟩ | ⟨hc, hd⟩ | ⟨hc, hd⟩ | ⟨hc, hd⟩ | ⟨hc, hd⟩ | ⟨hc, hd⟩ := decode_class w <;>
    rw [hd] <;> simp only [hc, Nat.reduceEqDiff, false_and, or_false, false_or, true_and]
  · exact decodeClass0_eq_error hc _
  all_goals
    rw [show (w.toNat / 2048 = 0) = False from eq_false (by omega)]
    simp [decodeClass1_eq_error, decodeClass2_ne_error, decodeClass3_ne_error]

theorem decode_eq_special_iff (w : BitVec 16) : decode w = .error .reservedSpecialRegister ↔
    w.extractLsb' 8 8 = 0xA0#8 ∧ 4 ≤ (w.extractLsb' 0 4).toNat ∨
      w.extractLsb' 8 8 = 0xA4#8 ∧ 4 ≤ (w.extractLsb' 4 4).toNat := by
  have hw := w.isLt
  simp only [← BitVec.toNat_inj, toNat_field, BitVec.toNat_ofNat]
  obtain ⟨hc, hd⟩ | ⟨hc, hd⟩ | ⟨hc, hd⟩ | ⟨hc, hd⟩ | ⟨hc, hd⟩ | ⟨hc, hd⟩ | ⟨hc, hd⟩ | ⟨hc, hd⟩ := decode_class w <;>
    rw [hd]
  case inr.inr.inr.inr.inr.inl => rw [decodeClass5_eq_special hc]; omega
  all_goals
    simp only [decodeClass0_eq_error, hc, decodeClass0a_ne_error, decodeClass1_eq_error, decodeClass2_ne_error,
      decodeClass3_ne_error, decodeClass4_ne_error, ne_eq, reduceCtorEq, not_false_eq_true, and_false, false_and,
      Except.error.injEq, false_iff]
    omega

theorem decode_ne_truncated (w : BitVec 16) : decode w ≠ .error .truncated := by
  obtain ⟨hc, hd⟩ | ⟨hc, hd⟩ | ⟨hc, hd⟩ | ⟨hc, hd⟩ | ⟨hc, hd⟩ | ⟨hc, hd⟩ | ⟨hc, hd⟩ | ⟨hc, hd⟩ := decode_class w <;>
    rw [hd] <;>
    simp [decodeClass0_eq_error, decodeClass0a_ne_error, decodeClass1_eq_error, decodeClass2_ne_error,
      decodeClass3_ne_error, decodeClass4_ne_error, decodeClass5_ne_error, hc]

theorem decode_eq_reservedClass_iff (w : BitVec 16) : decode w = .error .reservedClass ↔ 0xE000 ≤ w.toNat := by
  have hw := w.isLt
  obtain ⟨hc, hd⟩ | ⟨hc, hd⟩ | ⟨hc, hd⟩ | ⟨hc, hd⟩ | ⟨hc, hd⟩ | ⟨hc, hd⟩ | ⟨hc, hd⟩ | ⟨hc, hd⟩ := decode_class w <;>
    rw [hd] <;>
    simp [decodeClass0_eq_error, decodeClass0a_ne_error, decodeClass1_eq_error, decodeClass2_ne_error,
      decodeClass3_ne_error, decodeClass4_ne_error, decodeClass5_ne_error, hc] <;> omega

/-- Settles O4: one refusal after the other. -/
theorem unassignedCodesRefused : Obligations.UnassignedCodesRefused := fun w =>
  ⟨decode_eq_reservedClass_iff w, decode_eq_reserved_iff w, decode_eq_fixed_iff w, decode_eq_special_iff w,
    decode_ne_truncated w⟩

/-! ### Sample codes -/

/-- Settles O3: by evaluation. -/
theorem sampleCodesDecode : Obligations.SampleCodesDecode := by
  unfold Obligations.SampleCodesDecode
  decide

end Sys2Proof

/-! SUPPORT. What every instruction keeps (10_state.md section 3 to section 9): the hard-wired bits of the core registers, then what lies on the bus, then the hidden state. -/

namespace Sys2Proof.Machine

/-! ### Hard-wired bits of a word -/

theorem and_one_eq_zero_iff (x : Word) : x &&& 1#32 = 0#32 ↔ x.toNat % 2 = 0 := by
  rw [← BitVec.toNat_inj, BitVec.toNat_and]
  exact Eq.congr_left (Nat.and_one_is_mod _)

theorem and_three_eq_zero_iff (x : Word) : x &&& 3#32 = 0#32 ↔ x.toNat % 4 = 0 := by
  rw [← BitVec.toNat_inj, BitVec.toNat_and]
  exact Eq.congr_left (Nat.and_two_pow_sub_one_eq_mod _ 2)

theorem maskPc_even (x : Word) : maskPc x &&& 1#32 = 0#32 := by
  rw [and_one_eq_zero_iff, maskPc_toNat, Nat.mul_mod_left]

theorem maskPc_eq_ofNat (x : Word) : maskPc x = BitVec.ofNat 32 (x.toNat / 2 * 2) := by
  apply BitVec.eq_of_toNat_eq
  rw [maskPc_toNat, BitVec.toNat_ofNat, Nat.mod_eq_of_lt (by have := x.isLt; omega)]

theorem maskSp_aligned (x : Word) : maskSp x &&& 3#32 = 0#32 := and_mask_and_not x 0xFFFFFFFC#32

theorem even_add {x y : Word} (hx : x &&& 1#32 = 0#32) (hy : y &&& 1#32 = 0#32) : (x + y) &&& 1#32 = 0#32 := by
  rw [and_one_eq_zero_iff] at *
  rw [BitVec.toNat_add]
  omega

theorem aligned_add {x y : Word} (hx : x &&& 3#32 = 0#32) (hy : y &&& 3#32 = 0#32) : (x + y) &&& 3#32 = 0#32 := by
  rw [and_three_eq_zero_iff] at *
  rw [BitVec.toNat_add]
  omega

theorem aligned_sub {x y : Word} (hx : x &&& 3#32 = 0#32) (hy : y &&& 3#32 = 0#32) : (x - y) &&& 3#32 = 0#32 := by
  rw [and_three_eq_zero_iff] at *
  rw [BitVec.toNat_sub]
  omega

theorem spImmediate_aligned (imm10 : BitVec 10) : spImmediate imm10 &&& 3#32 = 0#32 := by
  rw [and_three_eq_zero_iff, spImmediate, BitVec.toNat_setWidth, toNat_append_field]
  simp only [BitVec.toNat_ofNat]
  omega

/-- A displacement ends in a 0 bit (47_branch.md R322). -/
theorem branchDisplacement_even (e : Ext) (sign8 : BitVec 8) : branchDisplacement e sign8 &&& 1#32 = 0#32 := by
  have hzero : ∀ {n : Nat} (x : BitVec n), (x ++ 0#1).getLsbD 0 = false := fun x => by
    rw [BitVec.getLsbD_append]; rfl
  have hextend : ∀ {n : Nat} (x : BitVec n), ((x ++ 0#1).signExtend 32).getLsbD 0 = false := fun x => by
    simp [BitVec.getLsbD_signExtend, hzero, -BitVec.getLsbD_eq_getElem]
  have hbit : (branchDisplacement e sign8).getLsbD 0 = false := by
    cases e with
    | none => exact hextend sign8
    | one e1 => exact hextend (e1 ++ sign8)
    | two e1 e2 => exact hzero (e1.extractLsb' 3 10 ++ e2 ++ sign8)
  rw [BitVec.getLsbD, Nat.testBit_zero, decide_eq_false_iff_not] at hbit
  rw [and_one_eq_zero_iff]
  omega

/-- Only the implemented bits of a PSR word are set (10_state.md R31). -/
theorem psrBits_iff (p : Word) :
    p &&& ~~~0x00000FDF#32 = 0#32 ↔ ∀ k < 32, p.getLsbD k = true → (0x00000FDF#32).getLsbD k = true := by
  refine ⟨fun h k hk hp => ?_, fun h => BitVec.eq_of_getLsbD_eq fun k hk => ?_⟩
  · have := congrArg (fun v : Word => v.getLsbD k) h
    simp only [BitVec.getLsbD_and, BitVec.getLsbD_not, hk, hp, decide_true, Bool.true_and, BitVec.getLsbD_zero,
      Bool.not_eq_false'] at this
    exact this
  · have := h k hk
    rw [BitVec.getLsbD_and, BitVec.getLsbD_not, BitVec.getLsbD_zero, decide_eq_true hk]
    cases hp : p.getLsbD k <;> simp_all

theorem withBit_psrBits {p : Word} (hp : p &&& ~~~0x00000FDF#32 = 0#32) {i : Nat} (b : Bool)
    (hi : (0x00000FDF#32).getLsbD i = true) : withBit p i b &&& ~~~0x00000FDF#32 = 0#32 := by
  rw [psrBits_iff] at *
  intro k hk
  rw [getLsbD_withBit p i b hk]
  split
  · next h => exact fun _ => h ▸ hi
  · exact hp k hk

theorem withZN_psrBits {p : Word} (hp : p &&& ~~~0x00000FDF#32 = 0#32) (res : Word) :
    withZN p res &&& ~~~0x00000FDF#32 = 0#32 :=
  withBit_psrBits (withBit_psrBits hp _ rfl) _ rfl

theorem withArith_psrBits {p : Word} (hp : p &&& ~~~0x00000FDF#32 = 0#32) (r : ArithResult) :
    withArith p r &&& ~~~0x00000FDF#32 = 0#32 :=
  withBit_psrBits (withBit_psrBits (withBit_psrBits (withBit_psrBits hp _ rfl) _ rfl) _ rfl) _ rfl

theorem withScan_psrBits {p : Word} (hp : p &&& ~~~0x00000FDF#32 = 0#32) (offset : Nat) :
    withScan p offset &&& ~~~0x00000FDF#32 = 0#32 :=
  withArith_psrBits hp ⟨0#32, offset == 8, false, offset == 0, false⟩

theorem trapEntry_psrBits {s : State} (hp : s.psr &&& ~~~0x00000FDF#32 = 0#32) (agent : Agent) (offset ret : Word)
    (level : Option (BitVec 4)) : (s.trapEntry agent offset ret level).psr &&& ~~~0x00000FDF#32 = 0#32 := by
  rw [psrBits_iff] at *
  intro k hk
  rw [s.trapEntry_psr agent offset ret level hk]
  have hlevel : ∀ k < 32, 8 ≤ k ∧ k < 12 → (0x00000FDF#32).getLsbD k = true := by decide
  split
  · simp
  · split
    · next h => exact fun _ => hlevel k hk h
    · exact hp k hk

/-! ### The core registers -/

/-- The hard-wired bits of PC, SP, PSR and DELAY (10_state.md R26, R31, R40; 47_branch.md R322). -/
structure State.CoreSound (s : State) : Prop where
  pcEven : s.pc &&& 1#32 = 0#32
  spAligned : s.sp &&& 3#32 = 0#32
  psrBits : s.psr &&& ~~~0x00000FDF#32 = 0#32
  delayEven : ∀ t, s.delay = some t → t &&& 1#32 = 0#32

namespace State.CoreSound

variable {s t : State}

/-- The next address, with nothing else changed. -/
theorem next (h : s.CoreSound) (hpc : t.pc = s.pc + 2#32) (hsp : t.sp = s.sp) (hpsr : t.psr = s.psr)
    (hdelay : t.delay = s.delay) : t.CoreSound :=
  ⟨hpc ▸ even_add h.pcEven rfl, hsp ▸ h.spAligned, hpsr ▸ h.psrBits, hdelay ▸ h.delayEven⟩

theorem advance (h : s.CoreSound) : s.advance.CoreSound := h.next rfl rfl rfl rfl

theorem trapEntry (h : s.CoreSound) (agent : Agent) (offset ret : Word) (level : Option (BitVec 4)) :
    (s.trapEntry agent offset ret level).CoreSound where
  pcEven := by rw [State.trapEntry_pc]; exact maskPc_even _
  spAligned := by rw [State.trapEntry_sp]; exact aligned_sub h.spAligned rfl
  psrBits := trapEntry_psrBits h.psrBits agent offset ret level
  delayEven := by rw [State.trapEntry_delay]; exact h.delayEven

theorem addressError (h : s.CoreSound) : s.addressError.CoreSound := h.trapEntry ..

theorem branchTo (h : s.CoreSound) (delayed : Bool) {x : Word} (hx : x &&& 1#32 = 0#32) :
    (s.branchTo delayed x).CoreSound := by
  cases delayed
  · exact ⟨hx, h.spAligned, h.psrBits, h.delayEven⟩
  · exact ⟨h.advance.pcEven, h.spAligned, h.psrBits, fun _ ht => Option.some.inj ht ▸ hx⟩

theorem noBranch (h : s.CoreSound) (delayed : Bool) : (s.noBranch delayed).CoreSound := by
  cases delayed
  · exact h.advance
  · exact h.branchTo true (even_add h.pcEven rfl)

theorem target (h : s.CoreSound) (sign8 : BitVec 8) : s.target sign8 &&& 1#32 = 0#32 :=
  even_add h.pcEven (branchDisplacement_even s.ext sign8)

theorem branchIf (h : s.CoreSound) (cond delayed : Bool) (sign8 : BitVec 8) :
    (s.branchIf cond delayed sign8).CoreSound := by
  cases cond
  · exact h.noBranch delayed
  · exact h.branchTo delayed (h.target sign8)

theorem push (h : s.CoreSound) (agent : Agent) (v : Word) : (s.push agent v).CoreSound where
  pcEven := by rw [State.push_pc]; exact h.pcEven
  spAligned := by rw [State.push_sp]; exact aligned_sub h.spAligned rfl
  psrBits := by rw [State.push_psr]; exact h.psrBits
  delayEven := by rw [State.push_delay]; exact h.delayEven

theorem pop (h : s.CoreSound) : s.pop.CoreSound where
  pcEven := by rw [State.pop_pc]; exact h.pcEven
  spAligned := by rw [State.pop_sp]; exact aligned_add h.spAligned rfl
  psrBits := by rw [State.pop_psr]; exact h.psrBits
  delayEven := by rw [State.pop_delay]; exact h.delayEven

theorem setReg (h : s.CoreSound) (r : Reg) (v : Word) : (s.setReg r v).CoreSound :=
  ⟨h.pcEven, h.spAligned, h.psrBits, h.delayEven⟩

theorem withPsr (h : s.CoreSound) {p : Word} (hp : p &&& ~~~0x00000FDF#32 = 0#32) :
    State.CoreSound { s with psr := p } :=
  ⟨h.pcEven, h.spAligned, hp, h.delayEven⟩

theorem withSp (h : s.CoreSound) {x : Word} (hx : x &&& 3#32 = 0#32) : State.CoreSound { s with sp := x } :=
  ⟨h.pcEven, hx, h.psrBits, h.delayEven⟩

theorem noteRead (h : s.CoreSound) (size : Size) (x : Word) : (s.noteRead size x).CoreSound := by
  rw [State.noteRead_eq]; exact ⟨h.pcEven, h.spAligned, h.psrBits, h.delayEven⟩

theorem store (h : s.CoreSound) (size : Size) (x v : Word) : (s.store size x v).CoreSound := by
  rw [State.store_eq]; exact ⟨h.pcEven, h.spAligned, h.psrBits, h.delayEven⟩

theorem ite_addressError {c : Prop} [Decidable c] (h : s.CoreSound) (ht : t.CoreSound) :
    (if c then s.addressError else t).CoreSound := by
  split
  · exact h.addressError
  · exact ht

theorem loadTo (h : s.CoreSound) (rd : Reg) (size : Size) (signed : Bool) (x : Word) :
    (s.loadTo rd size signed x).CoreSound :=
  h.ite_addressError ((h.noteRead size x).setReg rd _).advance

theorem loadPost (h : s.CoreSound) (rd rb : Reg) (size : Size) (signed : Bool) :
    (s.loadPost rd rb size signed).CoreSound :=
  h.ite_addressError (((h.noteRead size _).setReg rd _).setReg rb _).advance

theorem storeFrom (h : s.CoreSound) (rs : Reg) (size : Size) (x : Word) : (s.storeFrom rs size x).CoreSound :=
  h.ite_addressError (h.store size x _).advance

theorem storePost (h : s.CoreSound) (rb rs : Reg) (size : Size) : (s.storePost rb rs size).CoreSound :=
  h.ite_addressError ((h.store size _ _).setReg rb _).advance

theorem pushRegs (h : s.CoreSound) (n : Nat) : (s.pushRegs n).CoreSound := by
  induction n generalizing s with
  | zero => exact h
  | succ n ih => exact ih (h.push _ _)

theorem popRegs (h : s.CoreSound) (n : Nat) : (s.popRegs n).CoreSound := by
  induction n with
  | zero => exact h
  | succ n ih => exact ih.pop.setReg _ _

theorem macRepeat (h : s.CoreSound) (rs : Reg) : (s.macRepeat rs).CoreSound where
  pcEven := by unfold State.macRepeat; dsimp only; split <;> simpa using h.pcEven
  spAligned := by unfold State.macRepeat; dsimp only; split <;> simpa using h.spAligned
  psrBits := by
    obtain hp | hp := s.macRepeat_psr rs <;> rw [hp]
    · exact h.psrBits
    · exact withBit_psrBits h.psrBits _ rfl
  delayEven := by unfold State.macRepeat; dsimp only; split <;> simpa using h.delayEven

theorem debugEntry (h : s.CoreSound) (ret : Word) (causes causes2 : Byte) : (s.debugEntry ret causes causes2).CoreSound where
  pcEven := maskPc_even _
  spAligned := by rw [State.debugEntry_sp]; exact h.spAligned
  psrBits := by rw [State.debugEntry_psr]; exact h.psrBits
  delayEven := by rw [State.debugEntry_delay]; exact h.delayEven

theorem debugReturn (h : s.CoreSound) : s.debugReturn.CoreSound :=
  have ht := (h.noteRead .word (Config.debugBase s.cfg + 12#32)).noteRead .word (Config.debugBase s.cfg + 8#32)
  ⟨maskPc_even _, ht.spAligned, ht.psrBits, ht.delayEven⟩

theorem trapReturn (h : s.CoreSound) : s.trapReturn.CoreSound :=
  have ht := (h.pop.withPsr (and_mask_and_not (s.top 1) psrMask)).pop
  ⟨maskPc_even _, ht.spAligned, ht.psrBits, ht.delayEven⟩

end State.CoreSound

/-- An instruction that has two ways to end. -/
theorem exists_next_ite {c : Prop} [Decidable c] {a b : Result} {P : State → Prop} (ha : ∃ t, a = .next t ∧ P t)
    (hb : ∃ t, b = .next t ∧ P t) : ∃ t, (if c then a else b) = .next t ∧ P t := by
  split
  · exact ha
  · exact hb

theorem State.CoreSound.raiseZeroDivision {s : State} (h : s.CoreSound) (divisor : Word) :
    (s.raiseZeroDivision divisor).CoreSound := by
  unfold State.raiseZeroDivision
  split
  · exact ⟨h.pcEven, h.spAligned, h.psrBits, h.delayEven⟩
  · exact h

/-- A division start writes AHR, DS and N, and may raise a zero division (43_multiply_divide_mac.md R258, R259). -/
theorem State.CoreSound.divisionStart {s : State} (h : s.CoreSound) (ahr divisor : Word) (ds n : Bool) :
    (State.raiseZeroDivision { s with ahr := ahr, psr := withBit (withBit s.psr bitDS ds) bitN n }
      divisor).advance.CoreSound :=
  have hpsr := withBit_psrBits (withBit_psrBits h.psrBits ds rfl) n rfl
  have ht : State.CoreSound { s with ahr := ahr, psr := withBit (withBit s.psr bitDS ds) bitN n } :=
    ⟨h.pcEven, h.spAligned, hpsr, h.delayEven⟩
  (ht.raiseZeroDivision divisor).advance

theorem execDiv0s_coreSound (rs : Reg) {s : State} (h : s.CoreSound) : ∃ t, execDiv0s rs s = .next t ∧ t.CoreSound :=
  exists_next_ite ⟨_, rfl, h.divisionStart ..⟩ ⟨_, rfl, h.advance⟩

theorem execDiv0u_coreSound (rs : Reg) {s : State} (h : s.CoreSound) : ∃ t, execDiv0u rs s = .next t ∧ t.CoreSound :=
  exists_next_ite ⟨_, rfl, h.divisionStart ..⟩ ⟨_, rfl, h.advance⟩

/-- Every instruction keeps the hard-wired bits of the core registers. -/
theorem exec_coreSound (i : Instr) {s : State} (h : s.CoreSound) : ∃ t, exec i s = .next t ∧ t.CoreSound := by
  cases i
  case ldBReg | ldUbReg | ldHReg | ldUhReg | ldWReg | ldWImm | swap | mirror => exact ⟨_, rfl, (h.setReg ..).advance⟩
  case nop => exact ⟨_, rfl, h.advance⟩
  case slp | halt | ext => exact ⟨_, rfl, h.next rfl rfl rfl rfl⟩
  case addReg | addImm | adc | subReg | subImm | sbc =>
    exact ⟨_, rfl, ((h.withPsr (withArith_psrBits h.psrBits _)).setReg ..).advance⟩
  case cmpReg | cmpImm => exact ⟨_, rfl, (h.withPsr (withArith_psrBits h.psrBits _)).advance⟩
  case andReg | andImm | orReg | orImm | xorReg | xorImm | notReg | notImm =>
    exact ⟨_, rfl, ((h.withPsr (withZN_psrBits h.psrBits _)).setReg ..).advance⟩
  case srlImm | srlReg | sllImm | sllReg | sraImm | sraReg | slaImm | slaReg | rrImm | rrReg | rlImm | rlReg =>
    exact ⟨_, rfl, ((h.withPsr (withZN_psrBits h.psrBits _)).setReg ..).advance⟩
  case scan0 | scan1 => exact ⟨_, rfl, ((h.withPsr (withScan_psrBits h.psrBits _)).setReg ..).advance⟩
  case addSp imm10 => exact ⟨_, rfl, (h.withSp (aligned_add h.spAligned (spImmediate_aligned imm10))).advance⟩
  case subSp imm10 => exact ⟨_, rfl, (h.withSp (aligned_sub h.spAligned (spImmediate_aligned imm10))).advance⟩
  case ldWToSpecial sd rs =>
    cases sd with
    | psr => exact ⟨_, rfl, (h.withPsr (and_mask_and_not (s.reg rs) psrMask)).advance⟩
    | sp => exact ⟨_, rfl, (h.withSp (maskSp_aligned (s.reg rs))).next rfl rfl rfl rfl⟩
    | alr | ahr =>
      exact ⟨_, rfl, h.next (by split <;> rfl) (by split <;> rfl) (by split <;> rfl) (by split <;> rfl)⟩
  case ldWFromSpecial rd ss =>
    cases ss with
    | psr | sp => exact ⟨_, rfl, (h.setReg ..).advance⟩
    | alr | ahr =>
      exact ⟨_, rfl, h.next (by split <;> rfl) (by split <;> rfl) (by split <;> rfl) (by split <;> rfl)⟩
  case mltH | mltuH | mltW | mltuW =>
    exact ⟨_, rfl, h.next (by split <;> rfl) (by split <;> rfl) (by split <;> rfl) (by split <;> rfl)⟩
  case div0s rs => exact execDiv0s_coreSound rs h
  case div0u rs => exact execDiv0u_coreSound rs h
  case div1 | div2s | div3s =>
    refine exists_next_ite ⟨_, rfl, ?_⟩ ⟨_, rfl, h.advance⟩
    exact h.next rfl rfl rfl rfl
  case mac rs =>
    obtain hmac | hmac | hmac := execMac_cases rs s
    · exact ⟨_, hmac, h.advance⟩
    · exact ⟨_, hmac, h.addressError⟩
    · exact ⟨_, hmac, h.macRepeat rs⟩
  case btst => exact ⟨_, rfl, ((h.noteRead ..).withPsr (withBit_psrBits (h.noteRead ..).psrBits _ rfl)).advance⟩
  case bclr | bset | bnot => exact ⟨_, rfl, ((h.noteRead ..).store ..).advance⟩
  case ldBInd | ldBSp | ldUbInd | ldUbSp | ldHInd | ldHSp | ldUhInd | ldUhSp | ldWInd | ldWSp =>
    exact ⟨_, rfl, h.loadTo ..⟩
  case ldBPost | ldUbPost | ldHPost | ldUhPost | ldWPost => exact ⟨_, rfl, h.loadPost ..⟩
  case stBInd | stBSp | stHInd | stHSp | stWInd | stWSp => exact ⟨_, rfl, h.storeFrom ..⟩
  case stBPost | stHPost | stWPost => exact ⟨_, rfl, h.storePost ..⟩
  case pushn rs => exact ⟨_, rfl, (h.pushRegs (rs.val + 1)).advance⟩
  case popn rd => exact ⟨_, rfl, (h.popRegs (rd.val + 1)).advance⟩
  case jrgt | jrge | jrlt | jrle | jrugt | jruge | jrult | jrule | jreq | jrne => exact ⟨_, rfl, h.branchIf ..⟩
  case jrgtDelayed | jrgeDelayed | jrltDelayed | jrleDelayed | jrugtDelayed | jrugeDelayed | jrultDelayed
      | jruleDelayed | jreqDelayed | jrneDelayed =>
    exact ⟨_, rfl, h.branchIf ..⟩
  case jp d | jpDelayed d => exact ⟨_, rfl, h.branchTo _ (h.target d)⟩
  case jpReg rb | jpRegDelayed rb => exact ⟨_, rfl, h.branchTo _ (maskPc_even _)⟩
  case call d | callDelayed d => exact ⟨_, rfl, (h.push _ _).branchTo _ (h.target d)⟩
  case callReg | callRegDelayed => exact ⟨_, rfl, (h.push _ _).branchTo _ (maskPc_even _)⟩
  case ret | retDelayed => exact ⟨_, rfl, h.pop.branchTo _ (maskPc_even _)⟩
  case brk =>
    refine ⟨_, rfl, ?_⟩
    split
    · exact h.debugEntry ..
    · exact h.advance
  case retd => exact ⟨_, rfl, h.debugReturn⟩
  case int => exact ⟨_, rfl, h.trapEntry ..⟩
  case reti => exact ⟨_, rfl, h.trapReturn⟩

end Sys2Proof.Machine

/-! SUPPORT. The hidden state (10_state.md section 9): which instructions write EXT, DELAY, NMI_ARMED, RETD_SHADOW, RUN and the mode. -/

namespace Sys2Proof.Machine

/-- The hidden state beside EXT and DELAY is as before, but that a trap ends HALT and SLEEP. -/
structure HiddenRest (s t : State) : Prop where
  nmiArmed : t.nmiArmed = s.nmiArmed
  retdShadow : t.retdShadow = s.retdShadow
  userMode : t.userMode = s.userMode
  nmiPending : t.nmiPending = s.nmiPending
  busReleased : t.busReleased = s.busReleased
  cfg : t.cfg = s.cfg
  run : t.run = s.run ∨ t.run = .running

/-- DELAY is as before too. -/
structure HiddenSame (s t : State) : Prop extends HiddenRest s t where
  delay : t.delay = s.delay

/-- What an instruction that is no special case leaves of the hidden state; `delayed` says that it is a `.d` branch. -/
structure HiddenWritten (delayed : Bool) (s t : State) : Prop extends HiddenRest s t where
  ext : t.ext = .none
  delay : if delayed then t.delay.isSome = true else t.delay = s.delay

/-- Two states that agree on the fields. -/
theorem HiddenRest.of_fields {s t : State} (hn : t.nmiArmed = s.nmiArmed := by rfl)
    (hr : t.retdShadow = s.retdShadow := by rfl) (hu : t.dcr = s.dcr := by rfl)
    (hp : t.nmiPending = s.nmiPending := by rfl) (hb : t.busReleased = s.busReleased := by rfl)
    (hc : t.cfg = s.cfg := by rfl) (hrun : t.run = s.run := by rfl) : HiddenRest s t :=
  ⟨hn, hr, by rw [State.userMode, hu, State.userMode], hp, hb, hc, .inl hrun⟩

theorem HiddenRest.trans {s t u : State} (h : HiddenRest s t) (h' : HiddenRest t u) : HiddenRest s u where
  nmiArmed := h'.nmiArmed.trans h.nmiArmed
  retdShadow := h'.retdShadow.trans h.retdShadow
  userMode := h'.userMode.trans h.userMode
  nmiPending := h'.nmiPending.trans h.nmiPending
  busReleased := h'.busReleased.trans h.busReleased
  cfg := h'.cfg.trans h.cfg
  run := h'.run.elim (fun hr => hr ▸ h.run) .inr

namespace HiddenSame

variable {s t u : State}

theorem refl (s : State) : HiddenSame s s := ⟨.of_fields, rfl⟩

theorem trans (h : HiddenSame s t) (h' : HiddenSame t u) : HiddenSame s u :=
  ⟨h.toHiddenRest.trans h'.toHiddenRest, h'.delay.trans h.delay⟩

theorem noteRead (s : State) (size : Size) (x : Word) : HiddenSame s (s.noteRead size x) where
  nmiArmed := by simp
  retdShadow := by simp
  userMode := (s.noteRead_mapped size x).userMode
  nmiPending := by simp
  busReleased := by simp
  cfg := by simp
  run := by simp
  delay := by simp

theorem store (s : State) (size : Size) (x v : Word) : HiddenSame s (s.store size x v) where
  nmiArmed := by simp
  retdShadow := by simp
  userMode := (s.store_sameBreak size x v).mode
  nmiPending := by simp
  busReleased := by simp
  cfg := by simp
  run := by simp
  delay := by simp

theorem push (s : State) (agent : Agent) (v : Word) : HiddenSame s (s.push agent v) where
  nmiArmed := by simp
  retdShadow := by simp
  userMode := (s.push_sameBreak agent v).mode
  nmiPending := by simp
  busReleased := by simp
  cfg := by simp
  run := by simp
  delay := by simp

theorem pop (s : State) : HiddenSame s s.pop where
  nmiArmed := by simp
  retdShadow := by simp
  userMode := s.pop_mapped.userMode
  nmiPending := by simp
  busReleased := by simp
  cfg := by simp
  run := by simp
  delay := by simp

theorem setReg (s : State) (r : Reg) (v : Word) : HiddenSame s (s.setReg r v) := ⟨.of_fields, rfl⟩

theorem trapEntry (s : State) (agent : Agent) (offset ret : Word) (level : Option (BitVec 4)) :
    HiddenSame s (s.trapEntry agent offset ret level) where
  nmiArmed := by simp
  retdShadow := by simp
  userMode := (s.trapEntry_mapped agent offset ret level).userMode.trans
    ((push s agent ret).trans (push (s.push agent ret) agent s.psr)).userMode
  nmiPending := by simp
  busReleased := by simp
  cfg := by simp
  run := .inr rfl
  delay := by simp

theorem pushRegs (s : State) (n : Nat) : HiddenSame s (s.pushRegs n) := by
  induction n generalizing s with
  | zero => exact refl s
  | succ n ih => exact (push s _ _).trans (ih _)

theorem popRegs (s : State) (n : Nat) : HiddenSame s (s.popRegs n) := by
  induction n with
  | zero => exact refl s
  | succ n ih => exact (ih.trans (pop _)).trans (setReg _ _ _)

theorem macRepeat (s : State) (rs : Reg) : HiddenSame s (s.macRepeat rs) := by
  have hread := (noteRead s .half (s.reg (nextReg rs 1))).trans (noteRead _ .half (s.reg (nextReg rs 2)))
  unfold State.macRepeat
  dsimp only
  split <;> exact hread.trans ⟨.of_fields, rfl⟩

/-- The instruction ends at the next address, with some more fields written that are not hidden. -/
theorem advance (h : HiddenSame s t) : HiddenWritten false s t.advance :=
  ⟨h.toHiddenRest.trans .of_fields, rfl, h.delay⟩

/-- The instruction ends in a branch. -/
theorem branchTo (h : HiddenSame s t) (delayed : Bool) (x : Word) : HiddenWritten delayed s (t.branchTo delayed x) := by
  cases delayed
  · exact ⟨h.toHiddenRest.trans .of_fields, rfl, h.delay⟩
  · exact ⟨h.toHiddenRest.trans .of_fields, rfl, rfl⟩

end HiddenSame

namespace HiddenWritten

variable {s t u : State} {delayed : Bool}

theorem trapEntry (s : State) (agent : Agent) (offset ret : Word) (level : Option (BitVec 4)) :
    HiddenWritten false s (s.trapEntry agent offset ret level) :=
  have h := HiddenSame.trapEntry s agent offset ret level
  ⟨h.toHiddenRest, rfl, h.delay⟩

theorem ite {c : Prop} [Decidable c] (ht : HiddenWritten delayed s t) (hu : HiddenWritten delayed s u) :
    HiddenWritten delayed s (if c then t else u) := by
  split
  · exact ht
  · exact hu

theorem ite_addressError {c : Prop} [Decidable c] (h : HiddenWritten false s t) :
    HiddenWritten false s (if c then s.addressError else t) :=
  ite (trapEntry ..) h

theorem loadTo (s : State) (rd : Reg) (size : Size) (signed : Bool) (x : Word) :
    HiddenWritten false s (s.loadTo rd size signed x) :=
  ite_addressError ((HiddenSame.noteRead s size x).trans (.setReg ..)).advance

theorem loadPost (s : State) (rd rb : Reg) (size : Size) (signed : Bool) :
    HiddenWritten false s (s.loadPost rd rb size signed) :=
  ite_addressError (((HiddenSame.noteRead s size (s.reg rb)).trans (.setReg ..)).trans (.setReg ..)).advance

theorem storeFrom (s : State) (rs : Reg) (size : Size) (x : Word) :
    HiddenWritten false s (s.storeFrom rs size x) :=
  ite_addressError (HiddenSame.store s size x _).advance

theorem storePost (s : State) (rb rs : Reg) (size : Size) :
    HiddenWritten false s (s.storePost rb rs size) :=
  ite_addressError ((HiddenSame.store s size (s.reg rb) _).trans (.setReg ..)).advance

theorem rewriteByte (s : State) (x : Word) (f : Byte → Byte) : HiddenWritten false s (s.rewriteByte x f) :=
  ((HiddenSame.noteRead s .byte x).trans (.store ..)).advance

theorem branchIf (s : State) (cond delayed : Bool) (sign8 : BitVec 8) :
    HiddenWritten delayed s (s.branchIf cond delayed sign8) := by
  cases cond
  · cases delayed
    · exact (HiddenSame.refl s).advance
    · exact (HiddenSame.refl s).branchTo true _
  · exact (HiddenSame.refl s).branchTo delayed _

/-- A zero division raised is no write of the hidden state above. -/
theorem divisionStart (s : State) (ahr psr divisor : Word) :
    HiddenWritten false s (State.raiseZeroDivision { s with ahr := ahr, psr := psr } divisor).advance := by
  refine HiddenSame.advance ?_
  unfold State.raiseZeroDivision
  split <;> exact ⟨.of_fields, rfl⟩

theorem trapReturn (s : State) : HiddenWritten false s s.trapReturn :=
  have h := ((HiddenSame.pop s).trans (u := { s.pop with psr := s.top 1 &&& psrMask }) ⟨.of_fields, rfl⟩).trans (.pop _)
  ⟨h.toHiddenRest.trans .of_fields, rfl, h.delay⟩

end HiddenWritten

/-- The instructions that write more of the hidden state than DELAY and the end of EXT. -/
def Instr.hiddenCase : Instr → Bool
  | .ext _ | .mac _ | .ldWToSpecial _ _ | .brk | .retd | .halt | .slp => true
  | _ => false

/-- What every instruction but the special cases leaves of the hidden state. -/
theorem exec_hiddenWritten {i : Instr} (hi : Instr.hiddenCase i = false) (s : State) :
    ∃ t, exec i s = .next t ∧ HiddenWritten i.isDelayedBranch s t := by
  have hsame := HiddenSame.refl s
  cases i
  case ext | mac | ldWToSpecial | brk | retd | halt | slp => cases hi
  case addReg | addImm | adc | subReg | subImm | sbc | cmpReg | cmpImm | addSp | subSp =>
    exact ⟨_, rfl, .of_fields, rfl, rfl⟩
  case andReg | andImm | orReg | orImm | xorReg | xorImm | notReg | notImm => exact ⟨_, rfl, .of_fields, rfl, rfl⟩
  case srlImm | srlReg | sllImm | sllReg | sraImm | sraReg | slaImm | slaReg | rrImm | rrReg | rlImm | rlReg =>
    exact ⟨_, rfl, .of_fields, rfl, rfl⟩
  case scan0 | scan1 | swap | mirror | nop => exact ⟨_, rfl, .of_fields, rfl, rfl⟩
  case ldBReg | ldUbReg | ldHReg | ldUhReg | ldWReg | ldWImm => exact ⟨_, rfl, .of_fields, rfl, rfl⟩
  case ldWFromSpecial rd ss =>
    cases ss with
    | psr | sp => exact ⟨_, rfl, .of_fields, rfl, rfl⟩
    | alr | ahr => exact ⟨_, rfl, .ite ⟨.of_fields, rfl, rfl⟩ hsame.advance⟩
  case mltH | mltuH | mltW | mltuW => exact ⟨_, rfl, .ite ⟨.of_fields, rfl, rfl⟩ hsame.advance⟩
  case div0s | div0u =>
    exact exists_next_ite ⟨_, rfl, .divisionStart ..⟩ ⟨_, rfl, hsame.advance⟩
  case div1 | div2s | div3s => exact exists_next_ite ⟨_, rfl, .of_fields, rfl, rfl⟩ ⟨_, rfl, hsame.advance⟩
  case btst rb imm3 =>
    have hread := HiddenSame.noteRead s .byte (s.indirect rb)
    exact ⟨_, rfl, hread.toHiddenRest.trans .of_fields, rfl, hread.delay⟩
  case bclr | bset | bnot => exact ⟨_, rfl, .rewriteByte ..⟩
  case ldBInd | ldBSp | ldUbInd | ldUbSp | ldHInd | ldHSp | ldUhInd | ldUhSp | ldWInd | ldWSp =>
    exact ⟨_, rfl, .loadTo ..⟩
  case ldBPost | ldUbPost | ldHPost | ldUhPost | ldWPost => exact ⟨_, rfl, .loadPost ..⟩
  case stBInd | stBSp | stHInd | stHSp | stWInd | stWSp => exact ⟨_, rfl, .storeFrom ..⟩
  case stBPost | stHPost | stWPost => exact ⟨_, rfl, .storePost ..⟩
  case pushn rs => exact ⟨_, rfl, (HiddenSame.pushRegs s (rs.val + 1)).advance⟩
  case popn rd => exact ⟨_, rfl, (HiddenSame.popRegs s (rd.val + 1)).advance⟩
  case jrgt | jrge | jrlt | jrle | jrugt | jruge | jrult | jrule | jreq | jrne => exact ⟨_, rfl, .branchIf ..⟩
  case jrgtDelayed | jrgeDelayed | jrltDelayed | jrleDelayed | jrugtDelayed | jrugeDelayed | jrultDelayed
      | jruleDelayed | jreqDelayed | jrneDelayed =>
    exact ⟨_, rfl, .branchIf ..⟩
  case jp | jpReg => exact ⟨_, rfl, hsame.branchTo false _⟩
  case jpDelayed | jpRegDelayed => exact ⟨_, rfl, hsame.branchTo true _⟩
  case call | callReg => exact ⟨_, rfl, (HiddenSame.push s _ _).branchTo false _⟩
  case callDelayed | callRegDelayed => exact ⟨_, rfl, (HiddenSame.push s _ _).branchTo true _⟩
  case ret => exact ⟨_, rfl, (HiddenSame.pop s).branchTo false _⟩
  case retDelayed => exact ⟨_, rfl, (HiddenSame.pop s).branchTo true _⟩
  case int => exact ⟨_, rfl, .trapEntry ..⟩
  case reti => exact ⟨_, rfl, .trapReturn s⟩

/-! ### The special cases -/

/-- What the hidden state becomes in every instruction (10_state.md R50, R51, R54 to R58, R60). -/
structure HiddenOutcome (i : Instr) (s t : State) : Prop where
  ext : t.ext ≠ .none → (∃ imm13, i = .ext imm13) ∨ ∃ rs, i = .mac rs ∧ s.reg rs ≠ 0#32 ∧ t.ext = s.ext
  nmiArmed : t.nmiArmed = true ↔ s.nmiArmed = true ∨ ∃ rs, i = .ldWToSpecial .sp rs
  retdShadow : t.retdShadow = true ↔ s.retdShadow = true ∨ i = .retd
  delayed : i.isDelayedBranch = true → t.delay.isSome
  undelayed : i.isDelayedBranch = false → t.delay = s.delay
  userMode : t.userMode = true ↔ (s.userMode = true ∧ i ≠ .brk) ∨ i = .retd
  nmiPending : t.nmiPending = s.nmiPending
  busReleased : t.busReleased = s.busReleased
  cfg : t.cfg = s.cfg
  run : t.run ≠ .running → i = .halt ∨ i = .slp ∨ t.run = s.run

section
variable {i : Instr} {s t : State}

/-- An instruction that leaves the hidden state beside EXT and DELAY alone. -/
theorem HiddenRest.outcome (h : HiddenRest s t) (hsp : ∀ rs, i ≠ .ldWToSpecial .sp rs) (hbrk : i ≠ .brk)
    (hretd : i ≠ .retd) (hext : t.ext ≠ .none → (∃ imm13, i = .ext imm13) ∨ ∃ rs, i = .mac rs ∧ s.reg rs ≠ 0#32 ∧ t.ext = s.ext)
    (hdelay : if i.isDelayedBranch then t.delay.isSome = true else t.delay = s.delay) : HiddenOutcome i s t where
  ext := hext
  nmiArmed := by simp [h.nmiArmed, hsp]
  retdShadow := by simp [h.retdShadow, hretd]
  delayed hd := by simpa [hd] using hdelay
  undelayed hd := by simpa [hd] using hdelay
  userMode := by simp [h.userMode, hbrk, hretd]
  nmiPending := h.nmiPending
  busReleased := h.busReleased
  cfg := h.cfg
  run hrun := .inr (.inr (h.run.resolve_right hrun))

/-- An instruction that writes only EXT and, as a `.d` branch, DELAY. -/
theorem HiddenWritten.outcome (h : HiddenWritten i.isDelayedBranch s t) (hsp : ∀ rs, i ≠ .ldWToSpecial .sp rs := by nofun)
    (hbrk : i ≠ .brk := by nofun) (hretd : i ≠ .retd := by nofun) : HiddenOutcome i s t :=
  h.toHiddenRest.outcome hsp hbrk hretd (fun hne => absurd h.ext hne) h.delay

end

/-- When `mac` does a repeat (43_multiply_divide_mac.md R270). -/
theorem execMac_repeats (rs : Reg) (s : State) :
    execMac rs s = .next s.advance ∨ execMac rs s = .next s.addressError ∨
      s.cfg.hasMultiplier = true ∧ s.reg rs ≠ 0#32 ∧ execMac rs s = .next (s.macRepeat rs) := by
  by_cases hend : (!s.cfg.hasMultiplier || s.reg rs == 0#32) = true
  · exact .inl (if_pos hend)
  · obtain ⟨hm, hcount⟩ : s.cfg.hasMultiplier = true ∧ s.reg rs ≠ 0#32 := by simpa using hend
    refine .inr ?_
    rw [execMac, if_neg hend]
    split
    · exact .inl rfl
    · exact .inr ⟨hm, hcount, rfl⟩

theorem exec_mac_outcome (rs : Reg) (s : State) : ∃ t, exec (.mac rs) s = .next t ∧ HiddenOutcome (.mac rs) s t := by
  obtain h | h | ⟨-, hcount, h⟩ := execMac_repeats rs s
  · exact ⟨_, h, HiddenWritten.outcome (i := .mac rs) (HiddenSame.refl s).advance⟩
  · exact ⟨_, h, HiddenWritten.outcome (i := .mac rs) (HiddenWritten.trapEntry ..)⟩
  · have hrepeat := HiddenSame.macRepeat s rs
    exact ⟨_, h, hrepeat.toHiddenRest.outcome nofun nofun nofun
      (fun _ => .inr ⟨rs, rfl, hcount, s.macRepeat_ext rs⟩) hrepeat.delay⟩

theorem exec_ldWToSpecial_outcome (sd : SpecialReg) (rs : Reg) (s : State) :
    ∃ t, exec (.ldWToSpecial sd rs) s = .next t ∧ HiddenOutcome (.ldWToSpecial sd rs) s t := by
  cases sd with
  | psr => exact ⟨_, rfl, HiddenWritten.outcome (i := .ldWToSpecial .psr rs) ⟨.of_fields, rfl, rfl⟩⟩
  | alr =>
    exact ⟨_, rfl, HiddenWritten.outcome (i := .ldWToSpecial .alr rs) (.ite ⟨.of_fields, rfl, rfl⟩ (HiddenSame.refl s).advance)⟩
  | ahr =>
    exact ⟨_, rfl, HiddenWritten.outcome (i := .ldWToSpecial .ahr rs) (.ite ⟨.of_fields, rfl, rfl⟩ (HiddenSame.refl s).advance)⟩
  | sp =>
    exact ⟨_, rfl,
      { ext := fun h => absurd rfl h
        nmiArmed := iff_of_true rfl (.inr ⟨rs, rfl⟩)
        retdShadow := by simp
        delayed := nofun
        undelayed := fun _ => rfl
        userMode := by simp [State.userMode]
        nmiPending := rfl
        busReleased := rfl
        cfg := rfl
        run := fun _ => .inr (.inr rfl) }⟩

theorem State.debugEntry_userMode (s : State) (ret : Word) (causes causes2 : Byte) :
    (s.debugEntry ret causes causes2).userMode = false := by
  simp [State.debugEntry, State.userMode]

theorem State.debugReturn_userMode (s : State) : s.debugReturn.userMode = true := by
  simp [State.debugReturn, State.userMode]

/-- `brk` ends in debugging mode in both modes (10_state.md R55). -/
theorem exec_brk_outcome (s : State) : ∃ t, exec .brk s = .next t ∧ HiddenOutcome .brk s t := by
  cases hu : s.userMode with
  | true =>
    refine ⟨_, congrArg Host.Outcome.next (if_pos hu), ?_⟩
    exact
      { ext := fun h => absurd rfl h
        nmiArmed := by simp
        retdShadow := by simp
        delayed := nofun
        undelayed := fun _ => by simp
        userMode := by simp [State.debugEntry_userMode]
        nmiPending := by simp
        busReleased := by simp
        cfg := by simp
        run := fun _ => by simp }
  | false =>
    refine ⟨_, congrArg Host.Outcome.next (if_neg (Bool.eq_false_iff.mp hu)), ?_⟩
    have hu' : s.advance.userMode = false := hu
    exact
      { ext := fun h => absurd rfl h
        nmiArmed := by simp
        retdShadow := by simp
        delayed := nofun
        undelayed := fun _ => rfl
        userMode := by simp [hu']
        nmiPending := rfl
        busReleased := rfl
        cfg := rfl
        run := fun _ => .inr (.inr rfl) }

/-- `retd` ends in user mode and sets its shadow (10_state.md R55, R60). -/
theorem exec_retd_outcome (s : State) : ∃ t, exec .retd s = .next t ∧ HiddenOutcome .retd s t :=
  ⟨_, rfl,
    { ext := fun h => absurd rfl h
      nmiArmed := by simp [State.debugReturn]
      retdShadow := iff_of_true rfl (.inr rfl)
      delayed := nofun
      undelayed := fun _ => by simp [State.debugReturn]
      userMode := iff_of_true s.debugReturn_userMode (.inr rfl)
      nmiPending := by simp [State.debugReturn]
      busReleased := by simp [State.debugReturn]
      cfg := by simp [State.debugReturn]
      run := fun _ => by simp [State.debugReturn] }⟩

/-- `halt` and `slp` write RUN (48_system_ext_misc.md R372, R373). -/
theorem outcome_run (i : Instr) (s : State) (run : RunState) (hi : i = .halt ∨ i = .slp) :
    HiddenOutcome i s { s with run := run }.advance where
  ext h := absurd rfl h
  nmiArmed := by rcases hi with rfl | rfl <;> simp
  retdShadow := by rcases hi with rfl | rfl <;> simp
  delayed h := by rcases hi with rfl | rfl <;> cases h
  undelayed _ := rfl
  userMode := by rcases hi with rfl | rfl <;> simp [State.userMode]
  nmiPending := rfl
  busReleased := rfl
  cfg := rfl
  run _ := hi.imp_right .inl

/-- What the hidden state becomes in every instruction. -/
theorem exec_outcome (i : Instr) (s : State) : ∃ t, exec i s = .next t ∧ HiddenOutcome i s t := by
  cases hi : Instr.hiddenCase i with
  | false =>
    obtain ⟨t, ht, hwritten⟩ := exec_hiddenWritten hi s
    refine ⟨t, ht, hwritten.outcome (fun rs => ?_) ?_ ?_⟩ <;> (rintro rfl; cases hi)
  | true =>
    cases i
    case mac rs => exact exec_mac_outcome rs s
    case ldWToSpecial sd rs => exact exec_ldWToSpecial_outcome sd rs s
    case brk => exact exec_brk_outcome s
    case retd => exact exec_retd_outcome s
    case halt => exact ⟨_, rfl, outcome_run _ s _ (.inl rfl)⟩
    case slp => exact ⟨_, rfl, outcome_run _ s _ (.inr rfl)⟩
    case ext imm13 =>
      exact ⟨_, rfl, HiddenRest.outcome .of_fields nofun nofun nofun (fun _ => .inl ⟨imm13, rfl⟩) rfl⟩
    all_goals cases hi

/-- Settles O58: every instruction by `exec_outcome`. -/
theorem hiddenStateWriters : Obligations.HiddenStateWriters := by
  intro i s t h
  obtain ⟨u, hu, hout⟩ := exec_outcome i s
  obtain rfl : u = t := Host.Outcome.next.inj (hu.symm.trans h)
  exact ⟨hout.ext, hout.nmiArmed, hout.retdShadow, hout.delayed, hout.undelayed, hout.userMode, hout.nmiPending,
    hout.busReleased, hout.cfg⟩

end Sys2Proof.Machine

/-! SUPPORT. What lies on the bus (10_state.md section 7, section 8): what every instruction but `brk` and `retd` keeps of the memory-mapped registers and of memory, then what is read and written there. -/

namespace Sys2Proof.Machine

/-- The clauses of the invariant about what lies on the bus. -/
structure BusSound (s : State) : Prop where
  bits : MappedBits s
  wf : s.mem.wf = true
  control : s.debugCtl = .ok → s.dcr2.extractLsb' 1 5 = 0b00111#5 ∨ s.dcr2.extractLsb' 1 5 = 0#5

/-- The debug registers are as before. -/
structure DebugSame (s t : State) : Prop where
  dcr : t.dcr = s.dcr
  dcr2 : t.dcr2 = s.dcr2
  dsr : t.dsr = s.dsr
  dsr2 : t.dsr2 = s.dsr2
  ibar0 : t.ibar0 = s.ibar0
  ibar1 : t.ibar1 = s.ibar1
  ibar2 : t.ibar2 = s.ibar2
  dbar : t.dbar = s.dbar

/-- What an access keeps: the invariant of the bus, the mode, and in user mode the debug registers (20_memory.md R82). -/
structure BusKept (s t : State) : Prop where
  sound : BusSound s → BusSound t
  mode : t.userMode = s.userMode
  user : s.userMode = true → DebugSame s t

theorem DebugSame.trans {s t u : State} (h : DebugSame s t) (h' : DebugSame t u) : DebugSame s u :=
  ⟨h'.dcr.trans h.dcr, h'.dcr2.trans h.dcr2, h'.dsr.trans h.dsr, h'.dsr2.trans h.dsr2, h'.ibar0.trans h.ibar0,
    h'.ibar1.trans h.ibar1, h'.ibar2.trans h.ibar2, h'.dbar.trans h.dbar⟩

theorem MappedFrame.debugSame {s t : State} (h : MappedFrame s t) : DebugSame s t :=
  ⟨h.dcr, h.dcr2, h.dsr, h.dsr2, h.ibar0, h.ibar1, h.ibar2, h.dbar⟩

/-- An access trips the stop of U6 only after a wrong write. -/
theorem State.ok_of_touch_ok {s : State} {size : Size} {x : Word} (h : (s.touch size x).debugCtl = .ok) :
    s.debugCtl = .ok := by
  unfold State.touch at h
  split at h
  · cases h
  · exact h

theorem State.noteRead_debugCtl (s : State) (size : Size) (x : Word) :
    (s.noteRead size x).debugCtl = (s.touch size x).debugCtl := by
  rw [State.noteRead, State.armDataBreak_eq]

theorem State.noteWrite_debugCtl (s : State) (size : Size) (x : Word) :
    (s.noteWrite size x).debugCtl = (s.touch size x).debugCtl := by
  rw [State.noteWrite, State.armDataBreak_eq]

theorem State.pop_debugCtl (s : State) : s.pop.debugCtl = (s.touch .word s.sp).debugCtl :=
  s.noteRead_debugCtl .word s.sp

theorem State.ok_of_trapEntry_ok {s : State} {agent : Agent} {offset ret : Word} {level : Option (BitVec 4)}
    (h : (s.trapEntry agent offset ret level).debugCtl = .ok) : ((s.push agent ret).push agent s.psr).debugCtl = .ok := by
  unfold State.trapEntry State.loadVector at h
  dsimp only at h
  have hpushed := State.ok_of_touch_ok h
  exact hpushed

/-- The ways a byte write can go: it has no effect, it goes to a mapped byte, or to memory. -/
theorem State.writeByte_cases (s : State) (a : Nat) (b : Byte) :
    s.writeByte a b = s ∨
      (∃ r, mappedByte? a = some r ∧ ¬(debugRegistersFirst ≤ a ∧ a ≤ debugWindowLast ∧ s.userMode = true) ∧
        s.writeByte a b = s.writeMapped r b) ∨
      s.writeByte a b = { s with mem := Memory.write s.mem a b } := by
  unfold State.writeByte
  split
  · exact .inl rfl
  · next hguard =>
    split
    · next r hr => exact .inr (.inl ⟨r, hr, hguard, rfl⟩)
    · split
      · exact .inr (.inr rfl)
      all_goals exact .inl rfl

/-- A write of a mapped byte changes the byte 0x0078010 and what is remembered of it together (10_state.md R48). -/
theorem BusSound.writeMapped_control {s : State} (h : BusSound s) (r : MappedByte) (b : Byte)
    (hok : (s.writeMapped r b).debugCtl = .ok) :
    (s.writeMapped r b).dcr2.extractLsb' 1 5 = 0b00111#5 ∨ (s.writeMapped r b).dcr2.extractLsb' 1 5 = 0#5 := by
  have hlow : ∀ b : Byte, (b &&& 0x3F#8).extractLsb' 1 5 = b.extractLsb' 1 5 := by decide
  cases r
  case dcr2 =>
    simp only [State.writeMapped, State.writeDcr2] at hok ⊢
    split at hok
    · cases hok
    · next hbits =>
      left
      rw [hlow]
      by_contra hne
      exact hbits ⟨hne, hok⟩
  all_goals exact h.control hok

namespace BusKept

variable {s t u : State}

theorem trans (h : BusKept s t) (h' : BusKept t u) : BusKept s u where
  sound hs := h'.sound (h.sound hs)
  mode := h'.mode.trans h.mode
  user hu := (h.user hu).trans (h'.user (h.mode.trans hu))

/-- Nothing on the bus changes. -/
theorem of_frame (hm : MappedFrame s t) (hmem : t.mem = s.mem) (hc : t.debugCtl = .ok → s.debugCtl = .ok) :
    BusKept s t where
  sound hs := ⟨hm.mappedBits hs.bits, hmem ▸ hs.wf, fun h => hm.dcr2 ▸ hs.control (hc h)⟩
  mode := hm.userMode
  user _ := hm.debugSame

/-- Only fields of the core change. -/
theorem of_fields (hm : MappedFrame s t := by exact ⟨rfl, rfl, rfl, rfl, rfl, rfl, rfl, rfl, rfl, rfl⟩)
    (hmem : t.mem = s.mem := by rfl) (hc : t.debugCtl = s.debugCtl := by rfl) : BusKept s t :=
  of_frame hm hmem fun h => hc ▸ h

theorem refl (s : State) : BusKept s s := of_fields

theorem noteRead (s : State) (size : Size) (x : Word) : BusKept s (s.noteRead size x) :=
  of_frame (s.noteRead_mapped size x) (by simp) fun h => State.ok_of_touch_ok ((s.noteRead_debugCtl size x).symm.trans h)

theorem noteWrite (s : State) (size : Size) (x : Word) : BusKept s (s.noteWrite size x) :=
  of_frame (s.noteWrite_mapped size x) (by simp) fun h => State.ok_of_touch_ok ((s.noteWrite_debugCtl size x).symm.trans h)

theorem touch (s : State) (size : Size) (x : Word) : BusKept s (s.touch size x) :=
  of_frame (s.touch_mapped size x) (by simp) State.ok_of_touch_ok

/-- A write of a mapped byte outside the window of user mode, or in debugging mode (20_memory.md R82). -/
theorem writeMapped {a : Nat} {r : MappedByte} (hr : mappedByte? a = some r)
    (hguard : ¬(debugRegistersFirst ≤ a ∧ a ≤ debugWindowLast ∧ s.userMode = true)) (b : Byte)
    (hmode : (s.writeMapped r b).userMode = s.userMode) : BusKept s (s.writeMapped r b) where
  sound hs := ⟨hs.bits.writeMapped r b, by simpa using hs.wf, hs.writeMapped_control r b⟩
  mode := hmode
  user hu := by
    obtain rfl | ⟨i, -, rfl, -⟩ | ⟨hfirst, hlast⟩ := mappedByte?_window hr
    · exact ⟨rfl, rfl, rfl, rfl, rfl, rfl, rfl, rfl⟩
    · exact ⟨rfl, rfl, rfl, rfl, rfl, rfl, rfl, rfl⟩
    · exact absurd ⟨hfirst, hlast.trans (by decide), hu⟩ hguard

theorem writeByte (s : State) {a : Nat} (ha : a < 2 ^ 28) (b : Byte) : BusKept s (s.writeByte a b) := by
  have hmode := s.writeByte_userMode a b
  have hwf : s.mem.wf = true → (s.writeByte a b).mem.wf = true := fun h => State.writeByte_wf ha h b
  obtain h | ⟨r, hr, hguard, h⟩ | h := s.writeByte_cases a b <;> rw [h] at hmode hwf ⊢
  · exact refl s
  · exact writeMapped hr hguard b hmode
  · exact ⟨fun hs => ⟨⟨hs.bits.ttbr, hs.bits.ibar0, hs.bits.ibar1, hs.bits.ibar2, hs.bits.dbar, hs.bits.dcr,
      hs.bits.dcr2, hs.bits.dsr2⟩, hwf hs.wf, hs.control⟩, hmode, fun _ => ⟨rfl, rfl, rfl, rfl, rfl, rfl, rfl, rfl⟩⟩

theorem writeBytes (s : State) (x v : Word) (n : Nat) : BusKept s (s.writeBytes x v n) := by
  induction n with
  | zero => exact refl s
  | succ n ih => exact ih.trans (writeByte _ (busAddress_lt _ _) _)

theorem store (s : State) (size : Size) (x v : Word) : BusKept s (s.store size x v) :=
  (noteWrite s size x).trans (writeBytes _ x v _)

theorem push (s : State) (agent : Agent) (v : Word) : BusKept s (s.push agent v) := by
  have hsp : BusKept s { s with sp := s.sp - 4#32 } := of_fields
  cases agent
  · exact hsp.trans (store _ _ _ _)
  · exact hsp.trans ((touch _ _ _).trans (writeBytes _ _ _ _))

theorem pop (s : State) : BusKept s s.pop := (noteRead s .word s.sp).trans of_fields

theorem setReg (s : State) (r : Reg) (v : Word) : BusKept s (s.setReg r v) := of_fields

theorem advance (s : State) : BusKept s s.advance := of_fields

theorem branchTo (s : State) (delayed : Bool) (x : Word) : BusKept s (s.branchTo delayed x) := by
  cases delayed <;> exact of_fields

theorem trapEntry (s : State) (agent : Agent) (offset ret : Word) (level : Option (BitVec 4)) :
    BusKept s (s.trapEntry agent offset ret level) := by
  have hpush := (push s agent ret).trans (push (s.push agent ret) agent s.psr)
  refine hpush.trans (of_frame (s.trapEntry_mapped agent offset ret level) (s.trapEntry_mem agent offset ret level)
    State.ok_of_trapEntry_ok)

theorem ite {c : Prop} [Decidable c] (ht : BusKept s t) (hu : BusKept s u) : BusKept s (if c then t else u) := by
  split
  · exact ht
  · exact hu

theorem ite_addressError {c : Prop} [Decidable c] (h : BusKept s t) : BusKept s (if c then s.addressError else t) :=
  ite (trapEntry ..) h

theorem loadTo (s : State) (rd : Reg) (size : Size) (signed : Bool) (x : Word) :
    BusKept s (s.loadTo rd size signed x) :=
  ite_addressError ((noteRead s size x).trans of_fields)

theorem loadPost (s : State) (rd rb : Reg) (size : Size) (signed : Bool) :
    BusKept s (s.loadPost rd rb size signed) :=
  ite_addressError ((noteRead s size (s.reg rb)).trans of_fields)

theorem storeFrom (s : State) (rs : Reg) (size : Size) (x : Word) : BusKept s (s.storeFrom rs size x) :=
  ite_addressError ((store s size x _).trans of_fields)

theorem storePost (s : State) (rb rs : Reg) (size : Size) : BusKept s (s.storePost rb rs size) :=
  ite_addressError ((store s size (s.reg rb) _).trans of_fields)

theorem rewriteByte (s : State) (x : Word) (f : Byte → Byte) : BusKept s (s.rewriteByte x f) :=
  ((noteRead s .byte x).trans (store _ _ _ _)).trans of_fields

theorem branchIf (s : State) (cond delayed : Bool) (sign8 : BitVec 8) :
    BusKept s (s.branchIf cond delayed sign8) := by
  cases cond <;> cases delayed <;> exact of_fields

theorem callTo (s : State) (delayed : Bool) (x : Word) : BusKept s (s.callTo delayed x) :=
  (push s _ _).trans (branchTo _ _ _)

theorem returnBy (s : State) (delayed : Bool) : BusKept s (s.returnBy delayed) :=
  (pop s).trans (branchTo _ _ _)

theorem trapReturn (s : State) : BusKept s s.trapReturn :=
  ((pop s).trans (t := s.pop) (u := { s.pop with psr := s.top 1 &&& psrMask }) of_fields).trans
    ((pop _).trans of_fields)

theorem pushRegs (s : State) (n : Nat) : BusKept s (s.pushRegs n) := by
  induction n generalizing s with
  | zero => exact refl s
  | succ n ih => exact (push s _ _).trans (ih _)

theorem popRegs (s : State) (n : Nat) : BusKept s (s.popRegs n) := by
  induction n with
  | zero => exact refl s
  | succ n ih => exact ih.trans ((pop _).trans of_fields)

theorem macRepeat (s : State) (rs : Reg) : BusKept s (s.macRepeat rs) := by
  have hread := (noteRead s .half (s.reg (nextReg rs 1))).trans (noteRead _ .half (s.reg (nextReg rs 2)))
  unfold State.macRepeat
  dsimp only
  split <;> exact hread.trans of_fields

theorem divisionStart (s : State) (ahr psr divisor : Word) :
    BusKept s (State.raiseZeroDivision { s with ahr := ahr, psr := psr } divisor).advance := by
  unfold State.raiseZeroDivision
  split <;> exact of_fields

end BusKept

/-- What every instruction but `brk` and `retd` keeps of what lies on the bus. -/
theorem exec_busKept {i : Instr} (hbrk : i ≠ .brk) (hretd : i ≠ .retd) (s : State) :
    ∃ t, exec i s = .next t ∧ BusKept s t := by
  cases i
  case brk => exact absurd rfl hbrk
  case retd => exact absurd rfl hretd
  case addReg | addImm | adc | subReg | subImm | sbc | cmpReg | cmpImm | addSp | subSp => exact ⟨_, rfl, .of_fields⟩
  case andReg | andImm | orReg | orImm | xorReg | xorImm | notReg | notImm => exact ⟨_, rfl, .of_fields⟩
  case srlImm | srlReg | sllImm | sllReg | sraImm | sraReg | slaImm | slaReg | rrImm | rrReg | rlImm | rlReg =>
    exact ⟨_, rfl, .of_fields⟩
  case scan0 | scan1 | swap | mirror | nop | slp | halt | ext => exact ⟨_, rfl, .of_fields⟩
  case ldBReg | ldUbReg | ldHReg | ldUhReg | ldWReg | ldWImm => exact ⟨_, rfl, .of_fields⟩
  case ldWToSpecial sd rs =>
    cases sd with
    | psr | sp => exact ⟨_, rfl, .of_fields⟩
    | alr | ahr => exact ⟨_, rfl, .ite .of_fields .of_fields⟩
  case ldWFromSpecial rd ss =>
    cases ss with
    | psr | sp => exact ⟨_, rfl, .of_fields⟩
    | alr | ahr => exact ⟨_, rfl, .ite .of_fields .of_fields⟩
  case mltH | mltuH | mltW | mltuW => exact ⟨_, rfl, .ite .of_fields .of_fields⟩
  case div0s | div0u =>
    exact exists_next_ite ⟨_, rfl, .divisionStart ..⟩ ⟨_, rfl, .of_fields⟩
  case div1 | div2s | div3s => exact exists_next_ite ⟨_, rfl, .of_fields⟩ ⟨_, rfl, .of_fields⟩
  case mac rs =>
    obtain h | h | h := execMac_cases rs s
    · exact ⟨_, h, .advance s⟩
    · exact ⟨_, h, .trapEntry ..⟩
    · exact ⟨_, h, .macRepeat s rs⟩
  case btst rb imm3 => exact ⟨_, rfl, (BusKept.noteRead s .byte (s.indirect rb)).trans .of_fields⟩
  case bclr | bset | bnot => exact ⟨_, rfl, .rewriteByte ..⟩
  case ldBInd | ldBSp | ldUbInd | ldUbSp | ldHInd | ldHSp | ldUhInd | ldUhSp | ldWInd | ldWSp =>
    exact ⟨_, rfl, .loadTo ..⟩
  case ldBPost | ldUbPost | ldHPost | ldUhPost | ldWPost => exact ⟨_, rfl, .loadPost ..⟩
  case stBInd | stBSp | stHInd | stHSp | stWInd | stWSp => exact ⟨_, rfl, .storeFrom ..⟩
  case stBPost | stHPost | stWPost => exact ⟨_, rfl, .storePost ..⟩
  case pushn rs => exact ⟨_, rfl, (BusKept.pushRegs s (rs.val + 1)).trans (.advance _)⟩
  case popn rd => exact ⟨_, rfl, (BusKept.popRegs s (rd.val + 1)).trans (.advance _)⟩
  case jrgt | jrge | jrlt | jrle | jrugt | jruge | jrult | jrule | jreq | jrne => exact ⟨_, rfl, .branchIf ..⟩
  case jrgtDelayed | jrgeDelayed | jrltDelayed | jrleDelayed | jrugtDelayed | jrugeDelayed | jrultDelayed
      | jruleDelayed | jreqDelayed | jrneDelayed =>
    exact ⟨_, rfl, .branchIf ..⟩
  case jp | jpDelayed | jpReg | jpRegDelayed => exact ⟨_, rfl, .branchTo ..⟩
  case call | callDelayed | callReg | callRegDelayed => exact ⟨_, rfl, .callTo ..⟩
  case ret | retDelayed => exact ⟨_, rfl, .returnBy ..⟩
  case int => exact ⟨_, rfl, .trapEntry ..⟩
  case reti => exact ⟨_, rfl, .trapReturn s⟩

/-! ### The debugging exception and `retd` -/

/-- The state of the debugging exception after its two writes (60_exceptions.md R450). -/
def State.debugSaved (s : State) (ret : Word) : State :=
  let base := Config.debugBase s.cfg
  let s0 := if s.debugCtl = .misset then { s with debugCtl := .tripped } else s
  State.writeBytes (State.writeBytes s0 (base + 8#32) ret 4) (base + 12#32) (s.reg 0) 4

theorem State.debugEntry_debugSaved (s : State) (ret : Word) (causes causes2 : Byte) :
    s.debugEntry ret causes causes2 =
      { s.debugSaved ret with
        dsr := (s.debugSaved ret).dsr ||| causes
        dsr2 := (s.debugSaved ret).dsr2 ||| causes2
        dcr := (s.debugSaved ret).dcr ||| 0x01#8
        pc := (s.debugEntry ret causes causes2).pc
        ext := .none } := rfl

theorem BusKept.debugSaved (s : State) (ret : Word) : BusKept s (s.debugSaved ret) := by
  refine .trans (t := if s.debugCtl = .misset then { s with debugCtl := .tripped } else s) ?_
    ((BusKept.writeBytes _ _ _ _).trans (.writeBytes _ _ _ _))
  split
  · exact .of_frame ⟨rfl, rfl, rfl, rfl, rfl, rfl, rfl, rfl, rfl, rfl⟩ rfl nofun
  · exact .refl s

/-- Bits that are 0 under a mask in both operands are 0 in their union. -/
theorem or_and_eq_zero {n : Nat} {x y mask : BitVec n} (hx : x &&& mask = 0#n) (hy : y &&& mask = 0#n) :
    (x ||| y) &&& mask = 0#n := by
  rw [BitVec.and_or_distrib_right, hx, hy, BitVec.or_self]

/-- The debugging exception sets no bit that is not implemented. -/
theorem BusSound.debugEntry {s : State} (h : BusSound s) (ret : Word) (causes : Byte) {causes2 : Byte}
    (hcauses2 : causes2 &&& 0xFE#8 = 0#8) : BusSound (s.debugEntry ret causes causes2) := by
  have hsaved := (BusKept.debugSaved s ret).sound h
  obtain ⟨httbr, hibar0, hibar1, hibar2, hdbar, hdcr, hdcr2, hdsr2⟩ := hsaved.bits
  rw [State.debugEntry_debugSaved]
  refine ⟨⟨httbr, hibar0, hibar1, hibar2, hdbar, ?_, hdcr2, ?_⟩, hsaved.wf, hsaved.control⟩
  · exact or_and_eq_zero hdcr rfl
  · exact or_and_eq_zero hdsr2 hcauses2

theorem BusSound.debugReturn {s : State} (h : BusSound s) : BusSound s.debugReturn := by
  have hread := ((BusKept.noteRead s .word (Config.debugBase s.cfg + 12#32)).trans
    (.noteRead _ .word (Config.debugBase s.cfg + 8#32))).sound h
  obtain ⟨httbr, hibar0, hibar1, hibar2, hdbar, hdcr, hdcr2, hdsr2⟩ := hread.bits
  refine ⟨⟨httbr, hibar0, hibar1, hibar2, hdbar, ?_, hdcr2, hdsr2⟩, hread.wf, hread.control⟩
  have hcut : ∀ b : Byte, b &&& 0x80#8 = 0#8 → b &&& 0xFE#8 &&& 0x80#8 = 0#8 := by decide
  exact hcut _ hdcr

/-- Every instruction keeps the invariant of the bus. -/
theorem exec_busSound (i : Instr) {s : State} (h : BusSound s) : ∃ t, exec i s = .next t ∧ BusSound t := by
  by_cases hbrk : i = .brk
  · subst hbrk
    refine ⟨_, rfl, ?_⟩
    split
    · exact h.debugEntry _ _ rfl
    · exact (BusKept.advance s).sound h
  · by_cases hretd : i = .retd
    · subst hretd
      exact ⟨_, rfl, h.debugReturn⟩
    · obtain ⟨t, ht, hkept⟩ := exec_busKept hbrk hretd s
      exact ⟨t, ht, hkept.sound h⟩

end Sys2Proof.Machine

/-! SUPPORT. What the load and store forms do when they are aligned, and the registers that lie in memory, byte by byte (20_memory.md section 5). -/

namespace Sys2Proof.Machine

/-! ### The load and store forms -/

theorem State.loadTo_of_aligned {s : State} {size : Size} {x : Word} (h : x.toNat % size.bytes = 0) (rd : Reg)
    (signed : Bool) : s.loadTo rd size signed x = ((s.noteRead size x).setReg rd (s.loadValue 1 size signed x)).advance := by
  rw [State.loadTo, misaligned_false h, if_neg Bool.false_ne_true]

theorem State.loadPost_of_aligned {s : State} {size : Size} {rb : Reg} (h : (s.reg rb).toNat % size.bytes = 0) (rd : Reg)
    (signed : Bool) : s.loadPost rd rb size signed =
      (((s.noteRead size (s.reg rb)).setReg rd (s.loadValue 1 size signed (s.reg rb))).setReg rb
        (s.reg rb + BitVec.ofNat 32 size.bytes)).advance := by
  rw [State.loadPost, misaligned_false h, if_neg Bool.false_ne_true]

theorem State.storeFrom_of_aligned {s : State} {size : Size} {x : Word} (h : x.toNat % size.bytes = 0) (rs : Reg) :
    s.storeFrom rs size x = (s.store size x (s.reg rs)).advance := by
  rw [State.storeFrom, misaligned_false h, if_neg Bool.false_ne_true]

theorem State.storePost_of_aligned {s : State} {size : Size} {rb : Reg} (h : (s.reg rb).toNat % size.bytes = 0) (rs : Reg) :
    s.storePost rb rs size =
      ((s.store size (s.reg rb) (s.reg rs)).setReg rb (s.reg rb + BitVec.ofNat 32 size.bytes)).advance := by
  rw [State.storePost, misaligned_false h, if_neg Bool.false_ne_true]

section
variable (s : State) (rd rb rs : Reg) (imm6 : BitVec 6)

theorem exec_ldBInd : exec (.ldBInd rd rb) s = .next (s.loadTo rd .byte true (s.baseAddress rb)) := by
  rw [← State.indirect_eq]; rfl

theorem exec_ldBSp : exec (.ldBSp rd imm6) s = .next (s.loadTo rd .byte true (s.stackAddress .byte imm6)) := by
  rw [← State.spAddress_eq]; rfl

theorem exec_ldUbInd : exec (.ldUbInd rd rb) s = .next (s.loadTo rd .byte false (s.baseAddress rb)) := by
  rw [← State.indirect_eq]; rfl

theorem exec_ldUbSp : exec (.ldUbSp rd imm6) s = .next (s.loadTo rd .byte false (s.stackAddress .byte imm6)) := by
  rw [← State.spAddress_eq]; rfl

theorem exec_ldHInd : exec (.ldHInd rd rb) s = .next (s.loadTo rd .half true (s.baseAddress rb)) := by
  rw [← State.indirect_eq]; rfl

theorem exec_ldHSp : exec (.ldHSp rd imm6) s = .next (s.loadTo rd .half true (s.stackAddress .half imm6)) := by
  rw [← State.spAddress_eq]; rfl

theorem exec_ldUhInd : exec (.ldUhInd rd rb) s = .next (s.loadTo rd .half false (s.baseAddress rb)) := by
  rw [← State.indirect_eq]; rfl

theorem exec_ldUhSp : exec (.ldUhSp rd imm6) s = .next (s.loadTo rd .half false (s.stackAddress .half imm6)) := by
  rw [← State.spAddress_eq]; rfl

theorem exec_ldWInd : exec (.ldWInd rd rb) s = .next (s.loadTo rd .word false (s.baseAddress rb)) := by
  rw [← State.indirect_eq]; rfl

theorem exec_ldWSp : exec (.ldWSp rd imm6) s = .next (s.loadTo rd .word false (s.stackAddress .word imm6)) := by
  rw [← State.spAddress_eq]; rfl

theorem exec_stBInd : exec (.stBInd rb rs) s = .next (s.storeFrom rs .byte (s.baseAddress rb)) := by
  rw [← State.indirect_eq]; rfl

theorem exec_stBSp : exec (.stBSp imm6 rs) s = .next (s.storeFrom rs .byte (s.stackAddress .byte imm6)) := by
  rw [← State.spAddress_eq]; rfl

theorem exec_stHInd : exec (.stHInd rb rs) s = .next (s.storeFrom rs .half (s.baseAddress rb)) := by
  rw [← State.indirect_eq]; rfl

theorem exec_stHSp : exec (.stHSp imm6 rs) s = .next (s.storeFrom rs .half (s.stackAddress .half imm6)) := by
  rw [← State.spAddress_eq]; rfl

theorem exec_stWInd : exec (.stWInd rb rs) s = .next (s.storeFrom rs .word (s.baseAddress rb)) := by
  rw [← State.indirect_eq]; rfl

theorem exec_stWSp : exec (.stWSp imm6 rs) s = .next (s.storeFrom rs .word (s.stackAddress .word imm6)) := by
  rw [← State.spAddress_eq]; rfl

end

/-- A load of any form loads from its address, in the post-increment form from rb. -/
theorem exec_loadForms {s : State} {size : Size} {rd rb : Reg} {imm6 : BitVec 6} {p : Instr × Word}
    (hp : p ∈ s.loadForms size rd rb imm6) :
    ∃ signed, exec p.1 s = .next (s.loadTo rd size signed p.2) ∨
      p.2 = s.reg rb ∧ exec p.1 s = .next (s.loadPost rd rb size signed) := by
  cases size <;> simp only [State.loadForms, List.mem_cons, List.not_mem_nil, or_false] at hp
  case byte =>
    obtain rfl | rfl | rfl | rfl | rfl | rfl := hp
    · exact ⟨true, .inl (exec_ldBInd ..)⟩
    · exact ⟨false, .inl (exec_ldUbInd ..)⟩
    · exact ⟨true, .inr ⟨rfl, rfl⟩⟩
    · exact ⟨false, .inr ⟨rfl, rfl⟩⟩
    · exact ⟨true, .inl (exec_ldBSp ..)⟩
    · exact ⟨false, .inl (exec_ldUbSp ..)⟩
  case half =>
    obtain rfl | rfl | rfl | rfl | rfl | rfl := hp
    · exact ⟨true, .inl (exec_ldHInd ..)⟩
    · exact ⟨false, .inl (exec_ldUhInd ..)⟩
    · exact ⟨true, .inr ⟨rfl, rfl⟩⟩
    · exact ⟨false, .inr ⟨rfl, rfl⟩⟩
    · exact ⟨true, .inl (exec_ldHSp ..)⟩
    · exact ⟨false, .inl (exec_ldUhSp ..)⟩
  case word =>
    obtain rfl | rfl | rfl := hp
    · exact ⟨false, .inl (exec_ldWInd ..)⟩
    · exact ⟨false, .inr ⟨rfl, rfl⟩⟩
    · exact ⟨false, .inl (exec_ldWSp ..)⟩

/-- A store of any form stores to its address, in the post-increment form to rb. -/
theorem exec_storeForms {s : State} {size : Size} {rb rs : Reg} {imm6 : BitVec 6} {p : Instr × Word}
    (hp : p ∈ s.storeForms size rb rs imm6) :
    exec p.1 s = .next (s.storeFrom rs size p.2) ∨ p.2 = s.reg rb ∧ exec p.1 s = .next (s.storePost rb rs size) := by
  cases size <;> simp only [State.storeForms, List.mem_cons, List.not_mem_nil, or_false] at hp
  case byte =>
    obtain rfl | rfl | rfl := hp
    exacts [.inl (exec_stBInd ..), .inr ⟨rfl, rfl⟩, .inl (exec_stBSp ..)]
  case half =>
    obtain rfl | rfl | rfl := hp
    exacts [.inl (exec_stHInd ..), .inr ⟨rfl, rfl⟩, .inl (exec_stHSp ..)]
  case word =>
    obtain rfl | rfl | rfl := hp
    exacts [.inl (exec_stWInd ..), .inr ⟨rfl, rfl⟩, .inl (exec_stWSp ..)]

/-- `s` at the next address with other general registers. -/
def State.ended (s : State) (regs : Vector Word 16) : State := { s with regs := regs, pc := s.pc + 2#32, ext := .none }

/-- An aligned load of any form leaves the trace of its read and ends. -/
theorem exec_loadForm_of_aligned {s : State} {size : Size} {rd rb : Reg} {imm6 : BitVec 6} {p : Instr × Word}
    (hp : p ∈ s.loadForms size rd rb imm6) (h : p.2.toNat % size.bytes = 0) :
    ∃ regs, exec p.1 s = .next ((s.noteRead size p.2).ended regs) := by
  obtain ⟨signed, hexec | ⟨hx, hexec⟩⟩ := exec_loadForms hp
  · exact ⟨_, hexec.trans (congrArg _ (State.loadTo_of_aligned h rd signed))⟩
  · rw [hx] at h ⊢
    exact ⟨_, hexec.trans (congrArg _ (State.loadPost_of_aligned h rd signed))⟩

/-- An aligned store of any form is a store and the end of the instruction. -/
theorem exec_storeForm_of_aligned {s : State} {size : Size} {rb rs : Reg} {imm6 : BitVec 6} {p : Instr × Word}
    (hp : p ∈ s.storeForms size rb rs imm6) (h : p.2.toNat % size.bytes = 0) :
    ∃ regs, exec p.1 s = .next ((s.store size p.2 (s.reg rs)).ended regs) := by
  obtain hexec | ⟨hx, hexec⟩ := exec_storeForms hp
  · exact ⟨_, hexec.trans (congrArg _ (State.storeFrom_of_aligned h rs))⟩
  · rw [hx] at h ⊢
    exact ⟨_, hexec.trans (congrArg _ (State.storePost_of_aligned h rs))⟩

end Sys2Proof.Machine

namespace Sys2Proof.Machine

/-! ### The bytes of an access -/

theorem State.byteAddress_eq (s : State) (x : Word) (i : Nat) :
    s.byteAddress x i = (x.toNat + i) % 2 ^ min 28 s.cfg.addrBits := by
  have hdvd : 2 ^ min 28 s.cfg.addrBits ∣ 2 ^ 32 := pow_dvd_pow 2 (by omega)
  rw [State.byteAddress, busAddress, BitVec.toNat_add, BitVec.toNat_ofNat, Nat.mod_mod_of_dvd _ hdvd,
    Nat.add_mod, Nat.mod_mod_of_dvd _ hdvd, ← Nat.add_mod]

/-- The bytes of an access that reaches past the first four addresses lie at different addresses. -/
theorem State.byteAddress_ne {s : State} {x : Word} {i j : Nat} (hi : i < 4) (hj : j < 4) (hne : j ≠ i)
    (hbig : 4 ≤ s.byteAddress x i) : s.byteAddress x j ≠ s.byteAddress x i := by
  rw [State.byteAddress_eq] at hbig ⊢
  rw [State.byteAddress_eq]
  have hspace : 4 < 2 ^ min 28 s.cfg.addrBits := hbig.trans_lt (Nat.mod_lt _ (by positivity))
  intro heq
  have hmod : j % 2 ^ min 28 s.cfg.addrBits = i % 2 ^ min 28 s.cfg.addrBits := Nat.ModEq.add_left_cancel' x.toNat heq
  rw [Nat.mod_eq_of_lt (hj.trans hspace), Nat.mod_eq_of_lt (hi.trans hspace)] at hmod
  exact hne hmod

theorem Size.bytes_le (size : Size) : size.bytes ≤ 4 := by cases size <;> decide

/-! ### Writes in debugging mode -/

/-- In debugging mode a byte write goes to the mapped byte at its address, if there is one. -/
theorem State.writeByte_mapped {s : State} {a : Nat} {r : MappedByte} (hu : s.userMode = false) (hr : mappedByte? a = some r)
    (b : Byte) : s.writeByte a b = s.writeMapped r b := by
  simp [State.writeByte, hu, hr]

/-- Where no mapped byte lies, a byte write changes memory alone. -/
theorem State.writeByte_unmapped {s : State} {a : Nat} (hr : mappedByte? a = none) (b : Byte) :
    s.writeByte a b = { s with mem := (s.writeByte a b).mem } := by
  obtain h | ⟨r, hr', -⟩ | h := s.writeByte_cases a b
  · rw [h]
  · rw [hr] at hr'; cases hr'
  · rw [h]

/-- What a store in debugging mode has left where it put the byte `b` at the address `a`; `dcr` is the DCR byte before the
store. -/
structure DebugByteStored (dcr : Byte) (a : Nat) (b : Byte) (t : State) : Prop where
  dcr : a = 0x0078000 → t.dcr = (b &&& 0x7E#8) ||| (dcr &&& 0x01#8)
  dsr : a = 0x0078002 → t.dsr = b
  dcr2 : a = 0x0078010 → t.dcr2 = b &&& 0x3F#8
  dsr2 : a = 0x0078012 → t.dsr2 = b &&& 0x01#8
  ibar0 : ∀ j < 4, ∀ k < 8, a = 0x0078004 + j →
    t.ibar0.getLsbD (8 * j + k) = (b.getLsbD k && decide (1 ≤ 8 * j + k ∧ 8 * j + k < 28))
  ibar1 : ∀ j < 4, ∀ k < 8, a = 0x0078008 + j →
    t.ibar1.getLsbD (8 * j + k) = (b.getLsbD k && decide (1 ≤ 8 * j + k ∧ 8 * j + k < 28))
  ibar2 : ∀ j < 4, ∀ k < 8, a = 0x0078014 + j →
    t.ibar2.getLsbD (8 * j + k) = (b.getLsbD k && decide (1 ≤ 8 * j + k ∧ 8 * j + k < 28))
  dbar : ∀ j < 4, ∀ k < 8, a = 0x007800C + j →
    t.dbar.getLsbD (8 * j + k) = (b.getLsbD k && decide (8 * j + k < 28))

/-- The byte just written into a word register, under the register's mask. -/
theorem getLsbD_withByte_and_self (w mask : Word) (b : Byte) {j k : Nat} (hj : j < 4) (hk : k < 8) :
    (withByte w j b &&& mask).getLsbD (8 * j + k) = (b.getLsbD k && mask.getLsbD (8 * j + k)) := by
  rw [BitVec.getLsbD_and, getLsbD_withByte w j b (by omega), if_pos (by omega), Nat.add_sub_cancel_left]

/-- The other bytes of a word register, under the register's mask. -/
theorem getLsbD_withByte_and_ne (w mask : Word) (b : Byte) {i j k : Nat} (hj : j < 4) (hk : k < 8) (hne : j ≠ i) :
    (withByte w i b &&& mask).getLsbD (8 * j + k) = (w.getLsbD (8 * j + k) && mask.getLsbD (8 * j + k)) := by
  rw [BitVec.getLsbD_and, getLsbD_withByte w i b (by omega), if_neg (by omega)]

/-- A byte written in debugging mode is stored. -/
theorem State.writeByte_debugByteStored {s : State} (hu : s.userMode = false) (a : Nat) (b : Byte) :
    DebugByteStored s.dcr a b (s.writeByte a b) := by
  have hindex : ∀ j < 4, mappedByte? (0x78004 + j) = some (.ibar0 j) ∧ mappedByte? (0x78008 + j) = some (.ibar1 j) ∧
      mappedByte? (0x78014 + j) = some (.ibar2 j) ∧ mappedByte? (0x7800C + j) = some (.dbar j) := by decide
  constructor
  case dcr => rintro rfl; rw [State.writeByte_mapped (r := .dcr) hu rfl]; rfl
  case dsr => rintro rfl; rw [State.writeByte_mapped (r := .dsr) hu rfl]; rfl
  case dcr2 => rintro rfl; rw [State.writeByte_mapped (r := .dcr2) hu rfl]; rfl
  case dsr2 => rintro rfl; rw [State.writeByte_mapped (r := .dsr2) hu rfl]; rfl
  all_goals
    rintro j hj k hk rfl
    obtain ⟨h0, h1, h2, hd⟩ := hindex j hj
    obtain ⟨-, hibar, hdbar⟩ := getLsbD_masks (8 * j + k) (by omega)
  case ibar0 =>
    rw [State.writeByte_mapped hu h0, ← hibar]
    exact getLsbD_withByte_and_self _ _ _ hj hk
  case ibar1 =>
    rw [State.writeByte_mapped hu h1, ← hibar]
    exact getLsbD_withByte_and_self _ _ _ hj hk
  case ibar2 =>
    rw [State.writeByte_mapped hu h2, ← hibar]
    exact getLsbD_withByte_and_self _ _ _ hj hk
  case dbar =>
    rw [State.writeByte_mapped hu hd, ← hdbar]
    exact getLsbD_withByte_and_self _ _ _ hj hk

/-- A byte stored stays stored when another address is written. -/
theorem DebugByteStored.writeByte {dcr : Byte} {a a' : Nat} {b : Byte} {t : State} (h : DebugByteStored dcr a b t)
    (hu : t.userMode = false) (hne : a' ≠ a) (b' : Byte) : DebugByteStored dcr a b (t.writeByte a' b') := by
  cases hr : mappedByte? a' with
  | none =>
    rw [State.writeByte_unmapped hr]
    exact ⟨h.dcr, h.dsr, h.dcr2, h.dsr2, h.ibar0, h.ibar1, h.ibar2, h.dbar⟩
  | some r =>
    rw [State.writeByte_mapped hu hr]
    have haddress := mappedByte?_address hr
    have hword : ∀ {w mask : Word} {c : Bool} {i j k : Nat}, j < 4 → k < 8 → j ≠ i → mask.getLsbD (8 * j + k) = c →
        w.getLsbD (8 * j + k) = (b.getLsbD k && c) →
        (withByte w i b' &&& mask).getLsbD (8 * j + k) = (b.getLsbD k && c) := by
      intro w mask c i j k hj hk hji hmask hw
      rw [getLsbD_withByte_and_ne w mask b' hj hk hji, hw, hmask, Bool.and_assoc, Bool.and_self]
    have hmasks : ∀ j < 4, ∀ k < 8, _ := fun j hj k hk => getLsbD_masks (8 * j + k) (by omega)
    cases r
    case dcr => exact { h with dcr := fun ha => absurd (haddress.symm.trans ha.symm) hne }
    case dsr => exact { h with dsr := fun ha => absurd (haddress.symm.trans ha.symm) hne }
    case dcr2 => exact { h with dcr2 := fun ha => absurd (haddress.symm.trans ha.symm) hne }
    case dsr2 => exact { h with dsr2 := fun ha => absurd (haddress.symm.trans ha.symm) hne }
    case tbrp | ttbr => exact { h with }
    case ibar0 i =>
      refine { h with ibar0 := fun j hj k hk ha => hword hj hk ?_ (hmasks j hj k hk).2.1 (h.ibar0 j hj k hk ha) }
      rintro rfl
      exact hne (haddress.symm.trans ha.symm)
    case ibar1 i =>
      refine { h with ibar1 := fun j hj k hk ha => hword hj hk ?_ (hmasks j hj k hk).2.1 (h.ibar1 j hj k hk ha) }
      rintro rfl
      exact hne (haddress.symm.trans ha.symm)
    case ibar2 i =>
      refine { h with ibar2 := fun j hj k hk ha => hword hj hk ?_ (hmasks j hj k hk).2.1 (h.ibar2 j hj k hk ha) }
      rintro rfl
      exact hne (haddress.symm.trans ha.symm)
    case dbar i =>
      refine { h with dbar := fun j hj k hk ha => hword hj hk ?_ (hmasks j hj k hk).2.2 (h.dbar j hj k hk ha) }
      rintro rfl
      exact hne (haddress.symm.trans ha.symm)

/-- A DCR byte that a write in debugging mode leaves keeps DM (10_state.md R48). -/
theorem State.writeByte_dm {s : State} (hu : s.userMode = false) (a : Nat) (b : Byte) :
    (s.writeByte a b).dcr &&& 0x01#8 = s.dcr &&& 0x01#8 := by
  cases hr : mappedByte? a with
  | none => rw [State.writeByte_unmapped hr]
  | some r =>
    rw [State.writeByte_mapped hu hr]
    cases r
    case dcr =>
      have hdm : ∀ b c : Byte, (b &&& 0x7E#8 ||| c &&& 0x01#8) &&& 0x01#8 = c &&& 0x01#8 := by
        intro b c
        rw [BitVec.and_or_distrib_right, BitVec.and_assoc, BitVec.and_assoc, BitVec.and_self]
        change b &&& 0#8 ||| c &&& 0x01#8 = c &&& 0x01#8
        rw [BitVec.and_zero, BitVec.zero_or]
      exact hdm b s.dcr
    all_goals rfl

theorem DebugByteStored.congr {dcr dcr' : Byte} {a : Nat} {b : Byte} {t : State} (h : DebugByteStored dcr a b t)
    (hdm : dcr &&& 0x01#8 = dcr' &&& 0x01#8) : DebugByteStored dcr' a b t :=
  { h with dcr := fun ha => hdm ▸ h.dcr ha }

/-- Every byte of a write in debugging mode is stored, if its address is one of a debug register. -/
theorem State.writeBytes_debugByteStored {s : State} (hu : s.userMode = false) (x v : Word) {n : Nat} (hn : n ≤ 4) {i : Nat}
    (hi : i < n) (hbig : 4 ≤ s.byteAddress x i) :
    DebugByteStored s.dcr (s.byteAddress x i) (byteOf v i) (s.writeBytes x v n) := by
  have hdm : ∀ m, (s.writeBytes x v m).dcr &&& 0x01#8 = s.dcr &&& 0x01#8 := by
    intro m
    induction m with
    | zero => rfl
    | succ m ih => exact (State.writeByte_dm ((s.writeBytes_userMode x v m).trans hu) _ _).trans ih
  induction n with
  | zero => omega
  | succ n ih =>
    have hu' : (s.writeBytes x v n).userMode = false := (s.writeBytes_userMode x v n).trans hu
    obtain rfl | hlt := (Nat.lt_succ_iff.mp hi).eq_or_lt
    · exact (State.writeByte_debugByteStored hu' _ _).congr (hdm i)
    · exact (ih (by omega) hlt).writeByte hu' (State.byteAddress_ne (by omega) (by omega) (by omega) hbig) _

theorem State.store_debugByteStored {s : State} (hu : s.userMode = false) (size : Size) (x v : Word) {i : Nat}
    (hi : i < size.bytes) (hbig : 4 ≤ s.byteAddress x i) :
    DebugByteStored s.dcr (s.byteAddress x i) (byteOf v i) (s.store size x v) := by
  have hnote := s.noteWrite_mapped size x
  have haddress : (s.noteWrite size x).byteAddress x i = s.byteAddress x i := State.byteAddress_congr (by simp) x i
  have h := State.writeBytes_debugByteStored (hnote.userMode.trans hu) x v size.bytes_le hi (haddress.symm ▸ hbig)
  rwa [haddress, hnote.dcr] at h

/-! ### Reads of the registers that lie in memory -/

theorem State.readByte_mapped (s : State) {a : Nat} {r : MappedByte} (h : mappedByte? a = some r) (access : Nat) :
    s.readByte access a = s.readMapped r := by
  rw [State.readByte, h]

/-- `brk` changes of the debug registers DM and a status bit, `retd` DM alone (10_state.md R48, R55). -/
theorem exec_brk_user {s : State} (hu : s.userMode = true) :
    ∃ t, exec .brk s = .next t ∧ t.dcr &&& 0xFE#8 = s.dcr &&& 0xFE#8 ∧ t.dcr2 = s.dcr2 ∧ t.dsr2 = s.dsr2 ∧
      t.ibar0 = s.ibar0 ∧ t.ibar1 = s.ibar1 ∧ t.ibar2 = s.ibar2 ∧ t.dbar = s.dbar := by
  have hsame := (BusKept.debugSaved s (s.pc + 2#32)).user hu
  refine ⟨_, congrArg Host.Outcome.next (if_pos hu), ?_⟩
  rw [State.debugEntry_debugSaved]
  refine ⟨?_, hsame.dcr2, ?_, hsame.ibar0, hsame.ibar1, hsame.ibar2, hsame.dbar⟩
  · have hdm : ∀ b : Byte, (b ||| 0x01#8) &&& 0xFE#8 = b &&& 0xFE#8 := by decide
    exact (hdm _).trans (congrArg (· &&& 0xFE#8) hsame.dcr)
  · exact (BitVec.or_zero).trans hsame.dsr2

theorem exec_retd_debug (s : State) :
    ∃ t, exec .retd s = .next t ∧ t.dcr &&& 0xFE#8 = s.dcr &&& 0xFE#8 ∧ t.dcr2 = s.dcr2 ∧ t.dsr2 = s.dsr2 ∧
      t.ibar0 = s.ibar0 ∧ t.ibar1 = s.ibar1 ∧ t.ibar2 = s.ibar2 ∧ t.dbar = s.dbar ∧ t.dsr = s.dsr := by
  refine ⟨_, rfl, ?_⟩
  simp [State.debugReturn, BitVec.and_assoc]

/-- Settles O60: in user mode by `exec_busKept`, in debugging mode byte by byte by `State.store_debugByteStored`, and the
reads by what lies at each address. -/
theorem debugRegistersGuarded : Obligations.DebugRegistersGuarded := by
  refine ⟨fun i s t hu h => ?user, fun s rb rs imm6 size hu p hp halign => ?debug, fun s access => ?reads⟩
  case user =>
    by_cases hbrk : i = .brk
    · subst hbrk
      obtain ⟨u, hexec, hdcr, hdcr2, hdsr2, hibar0, hibar1, hibar2, hdbar⟩ := exec_brk_user hu
      obtain rfl : u = t := Host.Outcome.next.inj (hexec.symm.trans h)
      exact ⟨hdcr, hdcr2, hdsr2, hibar0, hibar1, hibar2, hdbar, fun hne => absurd rfl hne⟩
    · by_cases hretd : i = .retd
      · subst hretd
        obtain ⟨u, hexec, hdcr, hdcr2, hdsr2, hibar0, hibar1, hibar2, hdbar, hdsr⟩ := exec_retd_debug s
        obtain rfl : u = t := Host.Outcome.next.inj (hexec.symm.trans h)
        exact ⟨hdcr, hdcr2, hdsr2, hibar0, hibar1, hibar2, hdbar, fun _ => hdsr⟩
      · obtain ⟨u, hexec, hkept⟩ := exec_busKept hbrk hretd s
        obtain rfl : u = t := Host.Outcome.next.inj (hexec.symm.trans h)
        have hsame := hkept.user hu
        exact ⟨congrArg (· &&& 0xFE#8) hsame.dcr, hsame.dcr2, hsame.dsr2, hsame.ibar0, hsame.ibar1, hsame.ibar2,
          hsame.dbar, fun _ => hsame.dsr⟩
  case debug =>
    obtain ⟨regs, hexec⟩ := exec_storeForm_of_aligned hp halign
    refine ⟨_, hexec, fun i hi => ?_⟩
    have hstored := fun hbig => State.store_debugByteStored hu size p.2 (s.reg rs) hi hbig
    refine ⟨fun ha => (hstored (by omega)).dcr ha, fun ha => (hstored (by omega)).dsr ha,
      fun ha => (hstored (by omega)).dcr2 ha, fun ha => (hstored (by omega)).dsr2 ha, fun j hj k hk => ?_⟩
    exact ⟨fun ha => (hstored (by omega)).ibar0 j hj k hk ha, fun ha => (hstored (by omega)).ibar1 j hj k hk ha,
      fun ha => (hstored (by omega)).ibar2 j hj k hk ha, fun ha => (hstored (by omega)).dbar j hj k hk ha⟩
  case reads =>
    have hindex : ∀ j < 4, mappedByte? (0x48134 + j) = some (.ttbr j) ∧ mappedByte? (0x78004 + j) = some (.ibar0 j) ∧
        mappedByte? (0x78008 + j) = some (.ibar1 j) ∧ mappedByte? (0x7800C + j) = some (.dbar j) ∧
        mappedByte? (0x78014 + j) = some (.ibar2 j) := by decide
    refine ⟨rfl, rfl, rfl, rfl, rfl, fun j hj => ?_⟩
    obtain ⟨httbr, hibar0, hibar1, hdbar, hibar2⟩ := hindex j hj
    exact ⟨s.readByte_mapped httbr access, s.readByte_mapped hibar0 access, s.readByte_mapped hibar1 access,
      s.readByte_mapped hdbar access, s.readByte_mapped hibar2 access⟩

end Sys2Proof.Machine

/-! SUPPORT. The write protection of TTBR (10_state.md R46, R47) for a write of several bytes, then the obligation. -/

namespace Sys2Proof.Machine

/-- The bytes of an access that stays inside the bus follow each other. -/
theorem State.byteAddress_add {s : State} {x : Word} {i : Nat} (h : s.byteAddress x 0 + i < 2 ^ min 28 s.cfg.addrBits) :
    s.byteAddress x i = s.byteAddress x 0 + i := by
  rw [State.byteAddress_eq, Nat.add_zero] at h
  rw [State.byteAddress_eq, State.byteAddress_eq, Nat.add_zero, ← Nat.mod_add_mod, Nat.mod_eq_of_lt h]

/-- A bus of at least 20 bits reaches every register that lies in memory. -/
theorem space_le {s : State} (h : 20 ≤ s.cfg.addrBits) : 2 ^ 20 ≤ 2 ^ min 28 s.cfg.addrBits :=
  Nat.pow_le_pow_right (by decide) (by omega)

/-- A bus address is aligned as its word is. -/
theorem State.aligned_of_byteAddress {s : State} (hspace : 20 ≤ s.cfg.addrBits) {x : Word} (size : Size)
    (h : s.byteAddress x 0 % size.bytes = 0) : x.toNat % size.bytes = 0 := by
  have hdvd : size.bytes ∣ 2 ^ min 28 s.cfg.addrBits := by
    have hfour : 2 ^ 2 ∣ 2 ^ min 28 s.cfg.addrBits := pow_dvd_pow 2 (by omega)
    refine dvd_trans ?_ hfour
    cases size <;> decide
  rwa [State.byteAddress_eq, Nat.add_zero, Nat.mod_mod_of_dvd _ hdvd] at h

/-- The bits of a byte of a word. -/
theorem getLsbD_byteOf (v : Word) (i : Nat) {k : Nat} (hk : k < 8) : (byteOf v i).getLsbD k = v.getLsbD (8 * i + k) := by
  rw [byteOf, BitVec.getLsbD_extractLsb', decide_eq_true hk, Bool.true_and]

/-- A write of byte `i` of TTBR goes through in both modes: TTBR lies outside the window of user mode. -/
theorem State.writeByte_ttbr (s : State) {i : Nat} (hi : i < 4) (b : Byte) :
    s.writeByte (ttbrAddress + i) b = s.writeTtbrByte i b := by
  have hmapped : ∀ i < 4, mappedByte? (ttbrAddress + i) = some (.ttbr i) := by decide
  have hwindow : ¬(debugRegistersFirst ≤ ttbrAddress + i ∧ ttbrAddress + i ≤ debugWindowLast ∧ s.userMode = true) := by
    simp only [debugRegistersFirst, ttbrAddress]
    omega
  rw [State.writeByte, if_neg hwindow, hmapped i hi]
  rfl

theorem State.writeByte_tbrp (s : State) (b : Byte) : s.writeByte tbrpAddress b = s.writeTbrp b := by
  have hwindow : ¬(debugRegistersFirst ≤ tbrpAddress ∧ tbrpAddress ≤ debugWindowLast ∧ s.userMode = true) := by
    simp [debugRegistersFirst, tbrpAddress]
  rw [State.writeByte, if_neg hwindow]
  rfl

/-- What a write of `n` bytes that begins at byte `j` of TTBR leaves of TTBR and its write enable. -/
structure TtbrWritten (s : State) (j n : Nat) (v : Word) (t : State) : Prop where
  enable : t.ttbrWe = (s.ttbrWe && decide (j + n < 4))
  disabled : s.ttbrWe = false → t.ttbr = s.ttbr
  enabled : s.ttbrWe = true → ∀ k < 32, t.ttbr.getLsbD k =
    ((decide (n = 0) || decide (10 ≤ k ∧ k < 28)) &&
      if 8 * j ≤ k ∧ k < 8 * (j + n) then v.getLsbD (k - 8 * j) else s.ttbr.getLsbD k)

/-- One more byte, of which the implemented bits are kept. -/
theorem TtbrWritten.succ {s t : State} {j n : Nat} {v : Word} (h : TtbrWritten s j n v t) (hn : j + n < 4) :
    TtbrWritten s j (n + 1) v (t.writeTtbrByte (j + n) (byteOf v n)) where
  enable := by
    have hlast : (j + n != 3) = decide (j + (n + 1) < 4) := by
      rw [bne, Bool.eq_iff_iff]
      simp only [Bool.not_eq_true', beq_eq_false_iff_ne, decide_eq_true_eq]
      omega
    simp [State.writeTtbrByte, h.enable, hlast, hn]
  disabled hs := by simp [State.writeTtbrByte, h.enable, h.disabled hs, hs]
  enabled hs k hk := by
    have hmask : (0x0FFFFC00#32).getLsbD k = decide (10 ≤ k ∧ k < 28) := (getLsbD_masks k hk).1
    have hwe : t.ttbrWe = true := by rw [h.enable, hs, decide_eq_true hn]; rfl
    have hbyte := getLsbD_byteOf v n (k := k - 8 * (j + n))
    simp only [State.writeTtbrByte, hwe, if_true, maskTtbr, BitVec.getLsbD_and, hmask, getLsbD_withByte _ _ _ hk,
      h.enabled hs k hk, Nat.succ_ne_zero, decide_false, Bool.false_or]
    by_cases hin : 8 * (j + n) ≤ k ∧ k < 8 * (j + n) + 8
    · rw [if_pos hin, if_pos (by omega), hbyte (by omega), Bool.and_comm]
      congr 2; omega
    · rw [if_neg hin]
      by_cases hold : 8 * j ≤ k ∧ k < 8 * (j + n)
      · rw [if_pos hold, if_pos (by omega)]
        cases decide (n = 0) <;> cases decide (10 ≤ k ∧ k < 28) <;> simp
      · rw [if_neg hold, if_neg (by omega)]
        cases decide (n = 0) <;> cases decide (10 ≤ k ∧ k < 28) <;> simp

theorem State.writeBytes_ttbr {s : State} (hspace : 20 ≤ s.cfg.addrBits) {x : Word} {j : Nat}
    (hx : s.byteAddress x 0 = ttbrAddress + j) (hj : j < 4) (v : Word) {n : Nat} (hn : j + n ≤ 4) :
    TtbrWritten s j n v (s.writeBytes x v n) := by
  induction n with
  | zero =>
    refine ⟨?_, fun _ => rfl, fun _ k _ => ?_⟩
    · rw [Nat.add_zero, decide_eq_true hj, Bool.and_true]; rfl
    · rw [if_neg (by omega)]; rfl
  | succ n ih =>
    have haddress : s.byteAddress x n = ttbrAddress + (j + n) := by
      have := space_le hspace
      rw [State.byteAddress_add, hx, Nat.add_assoc]
      rw [hx, ttbrAddress]
      omega
    have hstep : s.writeBytes x v (n + 1) = (s.writeBytes x v n).writeTtbrByte (j + n) (byteOf v n) := by
      rw [State.writeBytes, haddress, State.writeByte_ttbr _ (by omega)]
    rw [hstep]
    exact (ih (by omega)).succ (by omega)

theorem State.store_ttbr {s : State} (hspace : 20 ≤ s.cfg.addrBits) {x : Word} {j : Nat} (size : Size)
    (hx : s.byteAddress x 0 = ttbrAddress + j) (hj : j < 4) (v : Word) (hn : j + size.bytes ≤ 4) :
    TtbrWritten s j size.bytes v (s.store size x v) := by
  have hnote := s.noteWrite_mapped size x
  obtain ⟨henable, hdisabled, henabled⟩ := State.writeBytes_ttbr (s := s.noteWrite size x) (by simpa using hspace)
    ((State.byteAddress_congr (by simp) x 0).trans hx) hj v hn
  rw [hnote.ttbrWe] at henable
  simp only [hnote.ttbrWe, hnote.ttbr] at hdisabled henabled
  exact ⟨henable, hdisabled, henabled⟩

/-- Settles O27: a store to TBRP by `State.writeByte_tbrp`, a store inside TTBR by `State.store_ttbr`. -/
theorem ttbrWriteProtocol : Obligations.TtbrWriteProtocol := by
  intro s rb rs imm6 hspace
  have hlow : ∀ x : Word, x.toNat < 2 ^ 20 → s.byteAddress x 0 = x.toNat := fun x hx => by
    rw [State.byteAddress_eq, Nat.add_zero, Nat.mod_eq_of_lt (hx.trans_le (space_le hspace))]
  refine ⟨fun p hp hx => ?tbrp, fun p hp hx => ?word, fun size p hp j hj halign hx => ?inside⟩
  case tbrp =>
    obtain ⟨regs, hexec⟩ := exec_storeForm_of_aligned hp (Nat.mod_one _)
    have hnote := s.noteWrite_mapped .byte p.2
    have hstore : s.store .byte p.2 (s.reg rs) = (s.noteWrite .byte p.2).writeTbrp (byteOf (s.reg rs) 0) := by
      rw [← State.writeByte_tbrp, State.store, Size.bytes, State.writeBytes, State.writeBytes,
        State.byteAddress_congr (by simp : (s.noteWrite .byte p.2).cfg = s.cfg), hlow p.2 (by rw [hx]; decide), hx]
      rfl
    refine ⟨_, hexec, ?_, ?_⟩ <;> rw [hstore]
    · exact hnote.ttbr
    · simp only [State.ended, State.writeTbrp, beq_iff_eq, ← BitVec.toNat_inj, byteOf_toNat, pow_zero, Nat.div_one]
      rfl
  case word =>
    have hbase : s.byteAddress p.2 0 = ttbrAddress + 0 := by rw [hlow p.2 (by rw [hx]; decide), hx]; rfl
    obtain ⟨regs, hexec⟩ := exec_storeForm_of_aligned hp (by rw [hx]; rfl)
    obtain ⟨henable, hdisabled, henabled⟩ := State.store_ttbr hspace .word hbase (by decide) (s.reg rs) (by decide)
    refine ⟨_, hexec, henable.trans (Bool.and_false _), ?_⟩
    split
    · next hwe =>
      refine BitVec.eq_of_getLsbD_eq fun k hk => (henabled hwe k hk).trans ?_
      rw [if_pos ⟨by omega, hk⟩, BitVec.getLsbD_and, (getLsbD_masks k hk).1, Bool.and_comm]
      rfl
    · next hwe => exact hdisabled (Bool.eq_false_iff.mpr hwe)
  case inside =>
    have hinside : j + size.bytes ≤ 4 := by cases size <;> simp only [Size.bytes] at halign ⊢ <;> omega
    have haligned : p.2.toNat % size.bytes = 0 := by
      refine State.aligned_of_byteAddress hspace size ?_
      rw [hx]
      cases size <;> simp only [Size.bytes] at halign ⊢ <;> omega
    obtain ⟨regs, hexec⟩ := exec_storeForm_of_aligned hp haligned
    obtain ⟨henable, hdisabled, henabled⟩ := State.store_ttbr hspace size hx hj (s.reg rs) hinside
    have hsize : size.bytes ≠ 0 := by cases size <;> decide
    refine ⟨_, hexec, ?_, hdisabled, fun hwe k hk => (henabled hwe k hk).trans ?_⟩
    · exact henable ▸ by simp
    · rw [decide_eq_false hsize, Bool.false_or]

end Sys2Proof.Machine

/-! SUPPORT. The step (60_exceptions.md R402): what each part around an instruction keeps, then the invariant. -/

namespace Sys2Proof.Machine

/-! ### The parts of the invariant -/

theorem State.Inv.coreSound {s : State} (h : s.Inv) : s.CoreSound := ⟨h.pcEven, h.spAligned, h.psrBits, h.delayEven⟩

theorem State.Inv.busSound {s : State} (h : s.Inv) : BusSound s := ⟨h.mappedBits, h.memory, h.debugControl⟩

/-- The invariant in its parts: the core registers, the bus, the hidden state and the marks of a step. -/
theorem State.Inv.of_parts {s : State} (hcore : s.CoreSound) (hbus : BusSound s) (hdelay : s.delay.isSome → s.ext = .none)
    (hrun : s.run ≠ .running → s.ext = .none ∧ s.delay = none ∧ s.retdShadow = false) (htripped : s.debugCtl ≠ .tripped)
    (hstores : s.storesNow = []) : s.Inv where
  pcEven := hcore.pcEven
  spAligned := hcore.spAligned
  psrBits := hcore.psrBits
  ttbrBits := hbus.bits.ttbr
  ibar0Bits := hbus.bits.ibar0
  ibar1Bits := hbus.bits.ibar1
  ibar2Bits := hbus.bits.ibar2
  dbarBits := hbus.bits.dbar
  dcrBits := hbus.bits.dcr
  dcr2Bits := hbus.bits.dcr2
  dsr2Bits := hbus.bits.dsr2
  delayEven := hcore.delayEven
  delayNotExtended := hdelay
  poweredDown := hrun
  memory := hbus.wf
  debugControl := hbus.control
  notTripped := htripped
  storesSettled := hstores

theorem State.CoreSound.of_fields {s t : State} (h : s.CoreSound) (hpc : t.pc = s.pc := by rfl) (hsp : t.sp = s.sp := by rfl)
    (hpsr : t.psr = s.psr := by rfl) (hdelay : t.delay = s.delay := by rfl) : t.CoreSound :=
  ⟨hpc ▸ h.pcEven, hsp ▸ h.spAligned, hpsr ▸ h.psrBits, hdelay ▸ h.delayEven⟩

theorem BusSound.of_fields {s t : State} (h : BusSound s) (hmem : t.mem.wf = true)
    (hm : MappedFrame s t := by exact ⟨rfl, rfl, rfl, rfl, rfl, rfl, rfl, rfl, rfl, rfl⟩) (hc : t.debugCtl = s.debugCtl := by rfl) : BusSound t :=
  ⟨hm.mappedBits h.bits, hmem, fun hok => hm.dcr2 ▸ h.control (hc ▸ hok)⟩

/-- The fields that the invariant speaks of. -/
theorem State.Inv.of_fields {s t : State} (h : s.Inv) (hmem : t.mem.wf = true) (hpc : t.pc = s.pc := by rfl)
    (hsp : t.sp = s.sp := by rfl) (hpsr : t.psr = s.psr := by rfl)
    (hm : MappedFrame s t := by exact ⟨rfl, rfl, rfl, rfl, rfl, rfl, rfl, rfl, rfl, rfl⟩) (hext : t.ext = s.ext := by rfl)
    (hdelay : t.delay = s.delay := by rfl) (hrun : t.run = s.run := by rfl) (hshadow : t.retdShadow = s.retdShadow := by rfl)
    (hc : t.debugCtl = s.debugCtl := by rfl) (hstores : t.storesNow = s.storesNow := by rfl) : t.Inv :=
  .of_parts (h.coreSound.of_fields hpc hsp hpsr hdelay) (h.busSound.of_fields hmem hm hc)
    (hext ▸ hdelay ▸ h.delayNotExtended) (hrun ▸ hext ▸ hdelay ▸ hshadow ▸ h.poweredDown) (hc ▸ h.notTripped)
    (hstores ▸ h.storesSettled)

/-! ### The boundary -/

/-- `t` differs from `s` in the pending traps alone. -/
def PendingOnly (s t : State) : Prop := t = { s with nmiPending := t.nmiPending, zdiv := t.zdiv, dbrk := t.dbrk }

theorem PendingOnly.refl (s : State) : PendingOnly s s := rfl

theorem PendingOnly.trans {s t u : State} (h : PendingOnly s t) (h' : PendingOnly t u) : PendingOnly s u := by
  unfold PendingOnly at *
  rw [h'] at *
  rw [h]

/-- The invariant does not speak of pending traps. -/
theorem PendingOnly.inv {s t : State} (h : PendingOnly s t) (hs : s.Inv) : t.Inv := by
  rw [h]
  exact hs.of_fields hs.memory

theorem State.drawZeroDivision_pendingOnly (s : State) : PendingOnly s s.drawZeroDivision := by
  unfold State.drawZeroDivision
  split <;> rfl

theorem State.drawDataBreak_pendingOnly (s : State) : PendingOnly s s.drawDataBreak := by
  unfold State.drawDataBreak
  split
  · split <;> rfl
  · rfl

/-- The three ways a boundary can go. -/
inductive BoundaryGoes (s : State) : Boundary → Prop where
  | passed {u : State} (h : PendingOnly s u) : BoundaryGoes s (.passed u)
  | trap {u : State} (h : PendingOnly s u) (offset ret : Word) (level : Option (BitVec 4)) :
      BoundaryGoes s (.taken (u.trapEntry .hardware offset ret level))
  | debug {u : State} (h : PendingOnly s u) (hr : s.run = .running) :
      BoundaryGoes s (.taken u.takeDebug)

theorem State.takeInterrupt_goes {s u : State} (h : PendingOnly s u) (irq : Option IrqRequest) :
    BoundaryGoes s (u.takeInterrupt irq) := by
  unfold State.takeInterrupt
  split
  · exact .trap (u := { u with nmiPending := false }) (h.trans rfl) _ _ _
  · split
    · split
      · exact .trap h _ _ _
      · exact .passed h
    · exact .passed h

theorem State.takeDebugOrInterrupt_goes {s u : State} (h : PendingOnly s u) (irq : Option IrqRequest) :
    BoundaryGoes s (u.takeDebugOrInterrupt irq) := by
  unfold State.takeDebugOrInterrupt
  split
  · next hcond =>
    have hdrawn := h.trans u.drawDataBreak_pendingOnly
    have hrun : u.run = .running := by simpa using (Bool.and_eq_true_iff.mp hcond).2
    dsimp only
    split
    · exact .debug hdrawn (by rw [← hrun, h])
    · exact State.takeInterrupt_goes hdrawn irq
  · exact State.takeInterrupt_goes h irq

theorem State.boundary_goes (s : State) (irq : Option IrqRequest) : BoundaryGoes s (s.boundary irq) := by
  unfold State.boundary
  split
  · exact .passed (.refl s)
  · have hdrawn := s.drawZeroDivision_pendingOnly
    dsimp only
    split
    · exact .trap (u := { s.drawZeroDivision with zdiv := .none }) (hdrawn.trans rfl) _ _ _
    · exact State.takeDebugOrInterrupt_goes hdrawn irq

/-! ### The invariant of each kind of step -/

theorem settle_eq_next {t u : State} (h : settle t = .next u) : u = t ∧ t.debugCtl ≠ .tripped := by
  unfold settle at h
  split at h
  · cases h
  · next htripped => cases h; exact ⟨rfl, htripped⟩

theorem State.Inv.trapEntry {s : State} (h : s.Inv) (offset ret : Word) (level : Option (BitVec 4))
    (htripped : (s.trapEntry .hardware offset ret level).debugCtl ≠ .tripped) :
    (s.trapEntry .hardware offset ret level).Inv :=
  .of_parts (h.coreSound.trapEntry ..) ((BusKept.trapEntry ..).sound h.busSound) (fun _ => rfl) (fun hr => absurd rfl hr)
    htripped ((s.trapEntry_hardware_storesNow offset ret level).trans h.storesSettled)

theorem State.debugCauses2_and (s : State) : s.debugCauses2 &&& 0xFE#8 = 0#8 := by
  unfold State.debugCauses2 bitIf
  split <;> rfl

theorem State.Inv.takeDebug {s : State} (h : s.Inv) (hr : s.run = .running)
    (htripped : s.takeDebug.debugCtl ≠ .tripped) : s.takeDebug.Inv := by
  have hcore := h.coreSound.debugEntry s.pc s.debugCauses s.debugCauses2
  have hbus := h.busSound.debugEntry s.pc s.debugCauses s.debugCauses2_and
  have hrun : (s.debugEntry s.pc s.debugCauses s.debugCauses2).run = .running := (s.debugEntry_run ..).trans hr
  have hstores := (s.debugEntry_storesNow s.pc s.debugCauses s.debugCauses2).trans h.storesSettled
  unfold State.takeDebug at htripped ⊢
  dsimp only at htripped ⊢
  split at htripped <;> rename_i hdue
  · rw [if_pos hdue]
    exact .of_parts ⟨hcore.pcEven, hcore.spAligned, hcore.psrBits, hcore.delayEven⟩ (hbus.of_fields hbus.wf)
      (fun _ => rfl) (fun h => absurd hrun h) htripped hstores
  · rw [if_neg hdue]
    exact .of_parts hcore hbus (fun _ => rfl) (fun h => absurd hrun h) htripped hstores

theorem State.Inv.resetProcessing {s : State} (h : s.Inv) (kind : ResetKind) : (s.resetProcessing kind).Inv := by
  have httbr : s.resetVectorAddress kind &&& ~~~0x0FFFFC00#32 = 0#32 := by
    cases kind
    · unfold State.resetVectorAddress Config.bootAddress
      dsimp only
      split <;> rfl
    · exact h.ttbrBits
  exact
    { pcEven := maskPc_even _
      spAligned := maskSp_aligned _
      psrBits := (by decide : 0#32 &&& ~~~0x00000FDF#32 = 0#32)
      ttbrBits := httbr
      ibar0Bits := and_mask_and_not _ _
      ibar1Bits := and_mask_and_not _ _
      ibar2Bits := and_mask_and_not _ _
      dbarBits := and_mask_and_not _ _
      dcrBits := (by decide : 0#8 &&& 0x80#8 = 0#8)
      dcr2Bits := (by decide : 0#8 &&& 0xC0#8 = 0#8)
      dsr2Bits := (by decide : 0#8 &&& 0xFE#8 = 0#8)
      delayEven := nofun
      delayNotExtended := fun _ => rfl
      poweredDown := fun hr => absurd rfl hr
      memory := h.memory
      debugControl := fun _ => .inr (by decide : (0#8).extractLsb' 1 5 = 0#5)
      notTripped := nofun
      storesSettled := rfl }

theorem State.Inv.masterWrites {s : State} (h : s.Inv) (cells : List Host.Cell) : (s.masterWrites cells).Inv := by
  have hwf := State.masterWrites_wf h.memory cells
  obtain ⟨mem, heq, -⟩ := State.masterWrites_spec cells s
  rw [heq] at hwf ⊢
  exact h.of_fields hwf

/-- The instruction that a step executes: its code lies at PC and it may stand there. -/
theorem State.fetch_eq_ok {s : State} {i : Instr} :
    s.fetch = .ok i ↔ s.codeJustStored = false ∧ (s.touch .half s.pc).debugCtl ≠ .tripped ∧ decode s.fetchCode = .ok i ∧
      (s.delay.isSome → i.isDelaySlotForm = true) := by
  unfold State.fetch
  split
  · next h => simp [h]
  · next h =>
    split
    · next h' => simp [h']
    · next h' =>
      rw [Bool.not_eq_true] at h
      simp only [h, h', ne_eq, not_false_eq_true, true_and]
      split
      · next e he => simp [he]
      · next j hj =>
        rw [hj]
        split
        · next hbad =>
          obtain ⟨hd, hi⟩ : s.delay.isSome = true ∧ j.isDelaySlotForm = false := by simpa using hbad
          constructor
          · nofun
          · rintro ⟨heq, hform⟩
            obtain rfl : j = i := Except.ok.inj heq
            rw [hform hd] at hi
            cases hi
        · next hgood =>
          constructor
          · intro heq
            obtain rfl : j = i := Except.ok.inj heq
            refine ⟨rfl, fun hd => ?_⟩
            simpa [hd] using hgood
          · rintro ⟨heq, -⟩
            obtain rfl : j = i := Except.ok.inj heq
            rfl

/-- A fetch that stops the step answers no next state. -/
theorem State.fetch_ne_error_next (s t : State) : s.fetch ≠ .error (.next t) := by
  unfold State.fetch
  split
  · nofun
  · split
    · nofun
    · split
      · nofun
      · split <;> nofun

/-- Every instruction keeps every part of the invariant. -/
theorem exec_sound (i : Instr) {s : State} (h : s.Inv) :
    ∃ t, exec i s = .next t ∧ t.CoreSound ∧ BusSound t ∧ HiddenOutcome i s t := by
  obtain ⟨t, ht, hcore⟩ := exec_coreSound i h.coreSound
  obtain ⟨t', ht', hbus⟩ := exec_busSound i h.busSound
  obtain ⟨t'', ht'', hout⟩ := exec_outcome i s
  obtain rfl : t = t' := Host.Outcome.next.inj (ht.symm.trans ht')
  obtain rfl : t = t'' := Host.Outcome.next.inj (ht.symm.trans ht'')
  exact ⟨t, ht, hcore, hbus, hout⟩

/-- The end of an instruction's step keeps the invariant. -/
theorem State.Inv.endOfStep {s t : State} {i : Instr} (h : s.Inv) (hr : s.run = .running)
    (hform : s.delay.isSome → i.isDelaySlotForm = true) (hcore : t.CoreSound) (hbus : BusSound t)
    (hout : HiddenOutcome i s t) (htripped : (s.endOfStep i t).debugCtl ≠ .tripped) : (s.endOfStep i t).Inv := by
  have hdelay : s.delay = none ∨ (s.endOfStep i t).delay = none := by
    cases hd : s.delay with
    | none => exact .inl rfl
    | some x => exact .inr (by simp [State.endOfStep, hd])
  refine .of_parts ⟨?pc, hcore.spAligned, hcore.psrBits, ?delay⟩ (hbus.of_fields hbus.wf) ?extended ?down htripped rfl
  case pc =>
    cases hd : s.delay with
    | none => simpa [State.endOfStep, hd] using hcore.pcEven
    | some x => simpa [State.endOfStep, hd] using h.delayEven x hd
  case delay =>
    intro x hx
    obtain hd | hd := hdelay
    · exact hcore.delayEven x (by simpa [State.endOfStep, hd] using hx)
    · rw [hd] at hx; cases hx
  case extended =>
    intro hsome
    by_contra hext
    obtain hd | hd := hdelay
    · have hsome : t.delay.isSome := by simpa [State.endOfStep, hd] using hsome
      have hbranch : i.isDelayedBranch = false := by
        obtain ⟨imm13, rfl⟩ | ⟨rs, rfl, -⟩ := hout.ext hext <;> rfl
      rw [hout.undelayed hbranch, hd] at hsome
      cases hsome
    · rw [hd] at hsome; cases hsome
  case down =>
    intro hdown
    have hi : i = .halt ∨ i = .slp := by
      obtain hi | hi | hrun := hout.run hdown
      · exact .inl hi
      · exact .inr hi
      · exact absurd (hrun.trans hr) hdown
    have hslot : i.isDelaySlotForm = false := by rcases hi with rfl | rfl <;> rfl
    have hbranch : i.isDelayedBranch = false := by rcases hi with rfl | rfl <;> rfl
    have hext : t.ext = .none := by
      by_contra hext
      obtain ⟨imm13, hi'⟩ | ⟨rs, hi', -⟩ := hout.ext hext <;> rcases hi with rfl | rfl <;> cases hi'
    have hd : s.delay = none := by
      cases hd : s.delay with
      | none => rfl
      | some x => rw [hform (by simp [hd])] at hslot; cases hslot
    refine ⟨hext, ?_, ?_⟩
    · simp [State.endOfStep, hd, hout.undelayed hbranch]
    · cases hs : s.retdShadow with
      | true => simp [State.endOfStep, hs]
      | false =>
        have hshadow : t.retdShadow ≠ true := fun ht => by
          obtain ht | ht := hout.retdShadow.mp ht
          · rw [hs] at ht; cases ht
          · rcases hi with rfl | rfl <;> cases ht
        simpa [State.endOfStep, hs] using hshadow

theorem State.Inv.runBoundary {s t : State} (h : s.Inv) {irq : Option IrqRequest} (ht : s.runBoundary irq = .next t) :
    t.Inv := by
  have hgoes := s.boundary_goes irq
  unfold State.runBoundary at ht
  generalize s.boundary irq = b at hgoes ht
  cases hgoes with
  | trap hp offset ret level =>
    obtain ⟨rfl, htripped⟩ := settle_eq_next ht
    exact (hp.inv h).trapEntry offset ret level htripped
  | debug hp hr =>
    obtain ⟨rfl, htripped⟩ := settle_eq_next ht
    exact (hp.inv h).takeDebug (by rw [hp]; exact hr) htripped
  | @passed u hp =>
    have hu := hp.inv h
    dsimp only at ht
    split at ht
    · next hr =>
      split at ht
      · next answer hfetch =>
        subst ht
        exact absurd hfetch (State.fetch_ne_error_next u t)
      · next i hfetch =>
        obtain ⟨-, -, -, hform⟩ := State.fetch_eq_ok.mp hfetch
        obtain ⟨v, hv, hcore, hbus, hout⟩ := exec_sound i hu
        rw [hv] at ht
        obtain ⟨rfl, htripped⟩ := settle_eq_next ht
        exact hu.endOfStep hr hform hcore hbus hout htripped
    · cases ht
      exact hu

/-- Settles O7: reset, bus release, the trap of a boundary and the instruction of a step each keep the invariant. -/
theorem stepKeepsInvariant : Obligations.StepKeepsInvariant := by
  intro s t h ht
  have hbegun : s.begun.Inv :=
    h.of_fields h.memory
  have hlatch : s.atBoundary.Inv :=
    h.of_fields h.memory
  unfold step State.runInput at ht
  split at ht
  · cases ht
  · split at ht
    · cases ht
      exact hbegun.resetProcessing _
    · dsimp only at ht
      split at ht
      · cases ht
        exact hlatch.masterWrites _
      · exact hlatch.runBoundary ht

end Sys2Proof.Machine

/-! SUPPORT. Reset, the boundary and its traps (60_exceptions.md section 1 to section 6): what each answers, then the obligations about whole steps. -/

/-- Settles O5: the fields of the reset state, and the word at the boot address, where memory lists nothing. -/
theorem Sys2Proof.resetValues : Obligations.ResetValues :=
  ⟨rfl, rfl, rfl, rfl, rfl, rfl, rfl, rfl, rfl, rfl, rfl, rfl, rfl, rfl, rfl, by decide⟩

namespace Sys2Proof.Machine

/-- Settles O6: every field of the reset state is written out. -/
theorem invariantAtReset : Obligations.InvariantAtReset where
  pcEven := by decide
  spAligned := by decide
  psrBits := by decide
  ttbrBits := by decide
  ibar0Bits := by decide
  ibar1Bits := by decide
  ibar2Bits := by decide
  dbarBits := by decide
  dcrBits := by decide
  dcr2Bits := by decide
  dsr2Bits := by decide
  delayEven := nofun
  delayNotExtended := nofun
  poweredDown := fun h => absurd rfl h
  memory := rfl
  debugControl := fun _ => .inr (by decide)
  notTripped := nofun
  storesSettled := rfl

/-- Settles O8: `step_reset`, then the fields of `State.resetProcessing`. -/
theorem resetStep : Obligations.ResetStep := by
  intro s kind hreset hirq
  refine ⟨_, step_reset hreset hirq, rfl, rfl, rfl, rfl, rfl, rfl, rfl, rfl, rfl, rfl, rfl, rfl, rfl, rfl, rfl, rfl, ?_, ?_, ?_⟩
  · rintro rfl; rfl
  · rintro rfl; rfl
  · exact (maskPc_toNat _).trans (congrArg (· / 2 * 2) (State.read32_toNat _ 1 _))

/-! ### The instruction of a step -/

/-- Two bytes put together give the code back, low byte first (20_memory.md R74). -/
theorem codeOfBytes_extractLsb' (w : BitVec 16) : codeOfBytes (w.extractLsb' 0 8) (w.extractLsb' 8 8) = w := by
  apply BitVec.eq_of_toNat_eq
  rw [codeOfBytes, toNat_append_byte, BitVec.extractLsb'_toNat, BitVec.extractLsb'_toNat, Nat.shiftRight_zero,
    Nat.shiftRight_eq_div_pow]
  have := w.isLt
  omega

/-- A step that no trap takes executes the instruction it fetches. -/
theorem step_executes {s u v : State} {i : Instr} (h : OrdinaryInput s)
    (hb : s.atBoundary.boundary s.nextInput.irq = .passed u) (hr : u.run = .running) (hf : u.fetch = .ok i)
    (he : exec i u = .next v) : step s = settle (u.endOfStep i v) := by
  rw [step_passed h hb hr, hf]
  dsimp only
  rw [he]
  rfl

theorem settle_of_ne {t : State} (h : t.debugCtl ≠ .tripped) : settle t = .next t := if_neg h

theorem settle_of_tripped {t : State} (h : t.debugCtl = .tripped) : settle t = .fault .debugControlMisset := if_pos h

/-- Settles O9: the code at PC decodes to the instruction by `decodeOfEncode`, and `State.endOfStep` is the end of its
step. -/
theorem stepRunsDecodedInstruction : Obligations.StepRunsDecodedInstruction := by
  intro s u v i h hb hr hlow hhigh hstored htouch hform he htripped
  have hcode : decode u.fetchCode = .ok i := by
    rw [State.fetchCode, hlow, hhigh, codeOfBytes_extractLsb']
    exact decodeOfEncode i
  have hf : u.fetch = .ok i := State.fetch_eq_ok.mpr ⟨hstored, htouch, hcode, hform⟩
  exact ⟨u.endOfStep i v, (step_executes h hb hr hf he).trans (settle_of_ne htripped), rfl, rfl, rfl, rfl, rfl, rfl, rfl, rfl, rfl⟩

/-! ### What the boundary draws -/

theorem State.drawZeroDivision_of_ne {s : State} (h : s.zdiv ≠ .raised) : s.drawZeroDivision = s := if_neg h

/-- A boundary with no zero division to take. -/
theorem State.boundary_unmasked {s : State} (hm : s.masked = false) (hz : s.zdiv = .none ∨ s.zdiv = .late)
    (irq : Option IrqRequest) : s.boundary irq = s.takeDebugOrInterrupt irq := by
  have hraised : s.zdiv ≠ .raised := by rcases hz with h | h <;> rw [h] <;> decide
  have hdue : s.zdiv ≠ .due := by rcases hz with h | h <;> rw [h] <;> decide
  rw [State.boundary, if_neg (by rw [hm]; decide), State.drawZeroDivision_of_ne hraised, if_neg hdue]

/-- A zero division that is due comes first. -/
theorem State.boundary_due {s : State} (hm : s.masked = false) (hz : s.zdiv = .due) (irq : Option IrqRequest) :
    s.boundary irq = .taken ({ s with zdiv := .none }.trapEntry .hardware 16#32 s.pc none) := by
  rw [State.boundary, if_neg (by rw [hm]; decide), State.drawZeroDivision_of_ne (by rw [hz]; decide), if_pos hz]

theorem State.masked_iff (s : State) : s.masked = true ↔ s.ext ≠ .none ∨ s.delay ≠ none ∨ s.retdShadow = true := by
  simp [State.masked, Option.isSome_iff_ne_none, or_assoc]

/-- No NMI can be taken and no request is accepted, or the mode keeps both waiting. -/
theorem State.takeInterrupt_passed {s : State} {irq : Option IrqRequest}
    (hnmi : (s.userMode && s.nmiArmed && s.nmiPending) = false) (hirq : s.acceptable irq = none ∨ s.userMode = false) :
    s.takeInterrupt irq = .passed s := by
  rw [State.takeInterrupt, if_neg (by rw [hnmi]; decide)]
  split
  · next hu =>
    rw [hirq.resolve_right (by rw [hu]; decide)]
  · rfl

theorem State.drawDataBreak_of_none {s : State} (h : s.dbrk = none) : s.drawDataBreak = s := by
  rw [State.drawDataBreak, h]

/-- Settles O10: a masked boundary by definition, a quiet one line by line of 60_exceptions.md R402. -/
theorem boundaryWithoutTrapPasses : Obligations.BoundaryWithoutTrapPasses := by
  intro s irq h
  cases hm : s.masked with
  | true => rw [State.boundary, if_pos hm]
  | false =>
    obtain hmask | ⟨hzdiv, ⟨hdcr, hdcr2, hdbrk⟩, hnmi, hirq⟩ := h
    · rw [← s.masked_iff, hm] at hmask
      cases hmask
    · have hpassed : s.takeInterrupt irq = .passed s := State.takeInterrupt_passed (by rw [hnmi, Bool.and_false]) (.inl hirq)
      rw [State.boundary_unmasked hm (.inl hzdiv), State.takeDebugOrInterrupt]
      split
      · have hbits : ∀ b : Byte, b &&& 0x0E#8 = 0#8 → b.getLsbD 1 = false ∧ b.getLsbD 2 = false ∧ b.getLsbD 3 = false := by
          decide
        have hbit : ∀ b : Byte, b &&& 0x01#8 = 0#8 → b.getLsbD 0 = false := by decide
        obtain ⟨h1, h2, h3⟩ := hbits s.dcr hdcr
        have hcauses : s.debugCauses = 0#8 := by
          rw [State.debugCauses, h1, h2, h3, State.dueDataBreak, hdbrk, Bool.false_and, Bool.false_and, Option.filter_none]
          decide
        have hcauses2 : s.debugCauses2 = 0#8 := by
          rw [State.debugCauses2, hbit s.dcr2 hdcr2, Bool.false_and]
          rfl
        dsimp only
        rw [State.drawDataBreak_of_none hdbrk, hcauses, hcauses2, hpassed]
        rfl
      · exact hpassed

/-- Settles O11: no debugging exception interrupts HALT or SLEEP, and the NMI and the request are excluded. -/
theorem poweredDownWaits : Obligations.PoweredDownWaits := by
  intro s h hrun hzdiv hirq hnmi
  have hpassed : s.atBoundary.boundary s.nextInput.irq = .passed s.atBoundary := by
    cases hm : s.atBoundary.masked with
    | true => rw [State.boundary, if_pos hm]
    | false =>
      rw [State.boundary_unmasked hm (.inl hzdiv), State.takeDebugOrInterrupt, if_neg]
      · refine State.takeInterrupt_passed ?_ hirq
        change (s.userMode && s.nmiArmed && (s.nmiPending || (s.nextInput.nmiEdge && s.nmiArmed))) = false
        revert hnmi
        cases s.userMode <;> cases s.nmiArmed <;> cases s.nmiPending <;> cases s.nextInput.nmiEdge <;> decide
      · have hrun' : (s.atBoundary.run == RunState.running) = false := beq_eq_false_iff_ne.mpr hrun
        rw [hrun', Bool.and_false]
        decide
  rw [step_powered_down h hpassed hrun]
  simp [State.atBoundary, State.latch, State.begun, h.busreq]

/-- Settles O12: `State.masterWrites_spec` on the state in which the bus is released. -/
theorem releasedBusStopsTheCore : Obligations.ReleasedBusStopsTheCore := by
  intro s hreset hbus hirq
  obtain ⟨mem, hmem, hkept, hwritten⟩ := State.masterWrites_spec s.nextInput.busWrites s.atBoundary
  refine ⟨mem, ?_, hkept, hwritten⟩
  rw [step_released hreset hbus hirq, hmem]
  simp [State.atBoundary, State.latch, State.begun, hbus]

end Sys2Proof.Machine

/-! SUPPORT. The traps of a boundary (60_exceptions.md R402 to R458): when a debugging exception is due, what it records, and what each trap leaves behind. -/

namespace Sys2Proof.Machine

/-! ### When a debugging exception is due -/

/-- The comparison of an instruction break address, bit by bit (60_exceptions.md R454). -/
theorem breakMatches_iff (ibar pc : Word) : breakMatches ibar pc = true ↔ breakAt ibar pc := by
  rw [breakMatches, beq_iff_eq]
  constructor
  · intro h b hlow hhigh
    have hbit := congrArg (fun v : BitVec 27 => v.getLsbD (b - 1)) h
    simp only [BitVec.getLsbD_extractLsb', decide_eq_true (show b - 1 < 27 by omega), Bool.true_and,
      Nat.add_sub_cancel' hlow] at hbit
    exact hbit
  · intro h
    refine BitVec.eq_of_getLsbD_eq fun b hb => ?_
    rw [BitVec.getLsbD_extractLsb', BitVec.getLsbD_extractLsb', h (1 + b) (by omega) (by omega)]

/-- What the first DSR byte is set to, from the four factors and the two kinds of the data break. -/
def causeByte (single break0 break1 due read write : Bool) : Byte :=
  bitIf single 0x02#8 ||| bitIf break0 0x04#8 ||| bitIf break1 0x08#8
    ||| bif due then 0x10#8 ||| bitIf read 0x20#8 ||| bitIf write 0x40#8 else 0#8

/-- Each factor has its bit (60_exceptions.md R458). -/
theorem causeByte_bits : ∀ single break0 break1 due read write : Bool,
    (causeByte single break0 break1 due read write).getLsbD 1 = single ∧
    (causeByte single break0 break1 due read write).getLsbD 2 = break0 ∧
    (causeByte single break0 break1 due read write).getLsbD 3 = break1 ∧
    (causeByte single break0 break1 due read write).getLsbD 4 = due ∧
    (causeByte single break0 break1 due read write).getLsbD 5 = (due && read) ∧
    (causeByte single break0 break1 due read write).getLsbD 6 = (due && write) ∧
    causeByte single break0 break1 due read write &&& 0x81#8 = 0#8 := by decide

/-- There is a cause exactly if there is a factor. -/
theorem causeByte_ne_zero : ∀ single break0 break1 due read write break2 : Bool,
    (causeByte single break0 break1 due read write != 0#8 || bitIf break2 0x01#8 != 0#8) =
      (single || break0 || break1 || due || break2) := by decide

theorem State.debugCauses_eq (s : State) :
    s.debugCauses = causeByte (s.dcr.getLsbD 1) (s.dcr.getLsbD 2 && breakMatches s.ibar0 s.pc)
      (s.dcr.getLsbD 3 && breakMatches s.ibar1 s.pc) s.dueDataBreak.isSome (s.dueDataBreak.any (·.read))
      (s.dueDataBreak.any (·.write)) := by
  rw [State.debugCauses, causeByte]
  cases s.dueDataBreak <;> rfl

theorem State.drawDataBreak_eq (s : State) : s.drawDataBreak = { s with dbrk := s.drawDataBreak.dbrk } := by
  unfold State.drawDataBreak
  split
  · split <;> rfl
  · rfl

/-- The data break that the boundary sees after its draw is the one the statements name. -/
theorem State.drawDataBreak_dbrk (s : State) : s.atBoundary.drawDataBreak.dbrk = s.drawnBreak := by
  have hdbrk : s.atBoundary.dbrk = s.dbrk := rfl
  unfold State.drawDataBreak State.drawnBreak
  rw [hdbrk]
  cases hb : s.dbrk with
  | none => exact hb
  | some b =>
    obtain ⟨read, write, wait⟩ := b
    cases wait with
    | none => rfl
    | some n => exact hb

/-- A data break is due at the boundary of the step that begins in `s`. -/
def State.breakDue (s : State) : Prop := ∃ b, s.drawnBreak = some b ∧ b.wait = some 0

theorem State.dueDataBreak_isSome (s : State) : s.atBoundary.drawDataBreak.dueDataBreak.isSome = true ↔ s.breakDue := by
  rw [State.dueDataBreak, State.drawDataBreak_dbrk, State.breakDue, Option.isSome_filter, Option.any_eq_true]
  simp only [beq_iff_eq]

/-- The kinds that a data break has recorded are the ones before its draw. -/
theorem State.dueDataBreak_any (s : State) {kind : DataBreak → Bool} (hkind : ∀ b wait, kind { b with wait := wait } = kind b) :
    s.atBoundary.drawDataBreak.dueDataBreak.any kind = true ↔ s.breakDue ∧ ∃ b, s.dbrk = some b ∧ kind b = true := by
  rw [State.dueDataBreak, State.drawDataBreak_dbrk, State.breakDue, State.drawnBreak]
  cases s.dbrk with
  | none => simp
  | some b =>
    rw [Option.map_some, Option.filter_some]
    split
    · next hdue => simpa [hkind] using fun _ => beq_iff_eq.mp hdue
    · next hdue =>
      refine iff_of_false (by simp) ?_
      rintro ⟨⟨b', hb', hwait⟩, -⟩
      obtain rfl := Option.some.inj hb'
      exact hdue (beq_iff_eq.mpr hwait)

/-- The boundary takes a debugging exception exactly when one is due. -/
theorem State.debugDue_iff (s : State) :
    (s.atBoundary.drawDataBreak.debugCauses != 0#8 || s.atBoundary.drawDataBreak.debugCauses2 != 0#8) = true ↔ s.debugDue := by
  rw [State.debugCauses_eq, State.debugCauses2, causeByte_ne_zero]
  simp only [Bool.or_eq_true, Bool.and_eq_true, State.dueDataBreak_isSome, breakMatches_iff]
  rw [s.atBoundary.drawDataBreak_eq]
  constructor
  · rintro ((((h | h) | h) | h) | h)
    exacts [.inl h, .inr (.inl h), .inr (.inr (.inl h)), .inr (.inr (.inr (.inr h))), .inr (.inr (.inr (.inl h)))]
  · rintro (h | h | h | h | h)
    exacts [.inl (.inl (.inl (.inl h))), .inl (.inl (.inl (.inr h))), .inl (.inl (.inr h)), .inr h, .inl (.inr h)]

/-! ### Which trap a boundary takes -/

/-- A debugging exception is due in user mode while the core runs. -/
theorem State.boundary_debug {s : State} (hm : s.masked = false) (hz : s.zdiv = .none ∨ s.zdiv = .late)
    (hr : s.run = .running) (hu : s.userMode = true) (hdue : s.debugDue) (irq : Option IrqRequest) :
    s.atBoundary.boundary irq = .taken s.atBoundary.drawDataBreak.takeDebug := by
  have hcond : (s.atBoundary.userMode && s.atBoundary.run == .running) = true := by
    rw [Bool.and_eq_true_iff, beq_iff_eq]
    exact ⟨hu, hr⟩
  rw [State.boundary_unmasked (s := s.atBoundary) hm hz, State.takeDebugOrInterrupt, if_pos hcond]
  exact if_pos (s.debugDue_iff.mpr hdue)

/-- The state in which an interrupt is taken: in a running core the data break has been drawn. -/
def State.interruptState (s : State) : State :=
  if s.run = .running then s.atBoundary.drawDataBreak else s.atBoundary

theorem State.interruptState_eq (s : State) :
    s.interruptState = { s.atBoundary with dbrk := if s.run = .running then s.drawnBreak else s.dbrk } := by
  unfold State.interruptState
  split
  · rw [s.atBoundary.drawDataBreak_eq, s.drawDataBreak_dbrk]
  · rfl

/-- Without a debugging exception the interrupts come. -/
theorem State.boundary_interrupt {s : State} (hm : s.masked = false) (hz : s.zdiv = .none ∨ s.zdiv = .late)
    (hu : s.userMode = true) (hdue : s.run = .running → ¬s.debugDue) (irq : Option IrqRequest) :
    s.atBoundary.boundary irq = s.interruptState.takeInterrupt irq := by
  have huser : s.atBoundary.userMode = true := hu
  rw [State.boundary_unmasked (s := s.atBoundary) hm hz, State.takeDebugOrInterrupt, State.interruptState, huser, Bool.true_and]
  by_cases hr : s.run = .running
  · have hrun : (s.atBoundary.run == .running) = true := beq_iff_eq.mpr hr
    rw [if_pos hrun, if_pos hr]
    exact if_neg fun h => hdue hr (s.debugDue_iff.mp h)
  · have hrun : (s.atBoundary.run == RunState.running) = false := beq_eq_false_iff_ne.mpr hr
    rw [if_neg hr, hrun]
    exact if_neg Bool.false_ne_true

/-- An armed NMI that is pending in user mode is taken. -/
theorem State.takeInterrupt_nmi {s : State} (hu : s.userMode = true) (ha : s.nmiArmed = true) (hp : s.nmiPending = true)
    {pc : Word} (hpc : s.pc = pc) (irq : Option IrqRequest) :
    s.takeInterrupt irq = .taken ({ s with nmiPending := false }.trapEntry .hardware 28#32 pc none) := by
  rw [← hpc, State.takeInterrupt, hu, ha, hp]
  rfl

/-- An acceptable request is taken in user mode if no NMI is. -/
theorem State.takeInterrupt_irq {s : State} (hu : s.userMode = true) (hnmi : (s.nmiArmed && s.nmiPending) = false)
    {irq : Option IrqRequest} {q : IrqRequest} (hq : s.acceptable irq = some q) {pc : Word} (hpc : s.pc = pc) :
    s.takeInterrupt irq = .taken (s.trapEntry .hardware (BitVec.ofNat 32 (64 + 4 * q.n)) pc (some q.level)) := by
  rw [← hpc, State.takeInterrupt, Bool.and_assoc, hnmi, Bool.and_false, if_neg Bool.false_ne_true, if_pos hu, hq]

/-! ### What a trap leaves behind -/

/-- What a trap leaves behind does not depend on what else is pending. -/
theorem TrapTaken.of_pendingOnly {s u t : State} (hp : PendingOnly s u) {offset : Nat} {ret : Word}
    {level : Option (BitVec 4)} (h : TrapTaken u offset ret level t) : TrapTaken s offset ret level t := by
  rw [hp] at h
  exact { h with
    mapped := ⟨h.mapped.ttbr, h.mapped.ttbrWe, h.mapped.dcr, h.mapped.dcr2, h.mapped.dsr, h.mapped.dsr2, h.mapped.ibar0,
      h.mapped.ibar1, h.mapped.ibar2, h.mapped.dbar⟩
    memory := h.memory }

/-- A write to a plain block trips nothing and is no wrong write. -/
theorem State.writeBytes_plain_debugCtl {s : State} {x : Word} {n : Nat} (h : s.plainBlock x n) (v : Word) :
    (s.writeBytes x v n).debugCtl = s.debugCtl := by
  rw [State.writeBytes_plain h]

theorem State.push_hardware_debugCtl {s : State} (h : s.plainBlock (s.sp - 4#32) 4) (hok : s.debugCtl = .ok) (v : Word) :
    (s.push .hardware v).debugCtl = .ok := by
  unfold State.push
  dsimp only
  rw [State.writeBytes_plain_debugCtl]
  · exact State.touch_debugCtl_ok _ _ _ hok
  · exact (State.plainBlock_congr (by simp) (State.touch_mapped _ _ _).userMode _ _).mpr h

/-- A trap that saves its frame in plain memory trips nothing. -/
theorem State.trapEntry_debugCtl_ok {s : State} {offset : Nat} (h : s.stackReady offset) (hok : s.debugCtl = .ok)
    (ret : Word) (level : Option (BitVec 4)) (vector : Word) :
    (s.trapEntry .hardware vector ret level).debugCtl = .ok := by
  obtain ⟨hlow, hhigh, -⟩ := State.plainBlock_add (m := 4) (n := 4) h.1
  have hsp : s.sp - 8#32 + 4#32 = s.sp - 4#32 := by bv_omega
  have hsp' : s.sp - 4#32 - 4#32 = s.sp - 8#32 := by bv_omega
  rw [show BitVec.ofNat 32 4 = 4#32 from rfl, hsp] at hhigh
  have hfirst := State.push_hardware_debugCtl hhigh hok ret
  have hsecond : ((s.push .hardware ret).push .hardware s.psr).debugCtl = .ok := by
    refine State.push_hardware_debugCtl ?_ hfirst _
    rw [State.push_sp, hsp']
    exact (State.plainBlock_congr (by simp) (s.push_sameBreak .hardware ret).mode _ _).mpr hlow
  unfold State.trapEntry State.loadVector
  exact State.touch_debugCtl_ok _ _ _ hsecond

theorem PendingOnly.withNmi (s : State) (pending : Bool) : PendingOnly s { s with nmiPending := pending } := rfl

theorem PendingOnly.withZdiv (s : State) (zdiv : ZeroDivision) : PendingOnly s { s with zdiv := zdiv } := rfl

/-- A trap of the boundary, as the step that takes it ends. -/
theorem step_trap {s u : State} (h : OrdinaryInput s) {offset : Nat} {level : Option (BitVec 4)}
    (hb : s.atBoundary.boundary s.nextInput.irq = .taken (u.trapEntry .hardware (BitVec.ofNat 32 offset) s.pc level))
    (hu : PendingOnly s.atBoundary u) (hready : s.stackReady offset) (hok : s.debugCtl = .ok) :
    step s = .next (u.trapEntry .hardware (BitVec.ofNat 32 offset) s.pc level) ∧
      TrapTaken s.atBoundary offset s.pc level (u.trapEntry .hardware (BitVec.ofNat 32 offset) s.pc level) := by
  have hready' : u.stackReady offset := by rw [hu]; exact hready
  have hok' : u.debugCtl = .ok := by rw [hu]; exact hok
  refine ⟨(step_taken h hb).trans (settle_of_ne ?_), (State.trapEntry_taken hready' .hardware s.pc level).of_pendingOnly hu⟩
  rw [State.trapEntry_debugCtl_ok hready' hok']
  decide

theorem State.interruptState_pendingOnly (s : State) : PendingOnly s.atBoundary s.interruptState := by
  rw [State.interruptState_eq]
  rfl

/-- Settles O13: the request is accepted in `State.interruptState`, and `step_trap` says what its trap leaves. -/
theorem maskableInterruptTaken : Obligations.MaskableInterruptTaken := by
  intro s level n h hirq hm hz hdue hu hnmi hie hlevel hok hready
  have hpending := s.interruptState_pendingOnly
  have hq : s.interruptState.acceptable s.nextInput.irq = some ⟨level, n⟩ := by
    rw [hpending, hirq]
    exact Option.filter_some_pos (by rw [Bool.and_eq_true_iff, decide_eq_true_eq]; exact ⟨hie, hlevel⟩)
  have hwaiting : (s.interruptState.nmiArmed && s.interruptState.nmiPending) = false := by
    rw [State.interruptState_eq]
    change (s.nmiArmed && (s.nmiPending || (s.nextInput.nmiEdge && s.nmiArmed))) = false
    revert hnmi
    cases s.nmiArmed <;> cases s.nmiPending <;> cases s.nextInput.nmiEdge <;> decide
  have hpc : s.interruptState.pc = s.pc := by rw [hpending]; rfl
  have hb := (State.boundary_interrupt hm hz hu hdue s.nextInput.irq).trans
    (State.takeInterrupt_irq (by rw [hpending]; exact hu) hwaiting hq hpc)
  obtain ⟨hstep, htaken⟩ := step_trap h hb hpending hready hok
  refine ⟨_, hstep, htaken, ?_, ?_, ?_⟩
  · rw [State.trapEntry_nmiPending, State.interruptState_eq]
  · rw [State.trapEntry_zdiv, State.interruptState_eq]; rfl
  · rw [State.trapEntry_hardware_dbrk, State.interruptState_eq]

/-- Settles O15: the NMI is looked at before any request; `step_trap` says what its trap leaves. -/
theorem nmiTaken : Obligations.NmiTaken := by
  intro s h hm hz hdue hu harmed hedge hok hready
  have hpending := s.interruptState_pendingOnly
  have hnmi : s.interruptState.nmiPending = true := by
    rw [State.interruptState_eq]
    change (s.nmiPending || (s.nextInput.nmiEdge && s.nmiArmed)) = true
    rw [harmed, Bool.and_true, Bool.or_eq_true]
    exact hedge
  have hpc : s.interruptState.pc = s.pc := by rw [hpending]; rfl
  have hb := (State.boundary_interrupt hm hz hu hdue s.nextInput.irq).trans
    (State.takeInterrupt_nmi (by rw [hpending]; exact hu) (by rw [hpending]; exact harmed) hnmi hpc _)
  obtain ⟨hstep, htaken⟩ := step_trap h hb
    (hpending.trans (.withNmi s.interruptState false)) hready hok
  refine ⟨_, hstep, htaken, ?_, ?_, ?_⟩
  · rw [State.trapEntry_nmiPending]
  · rw [State.trapEntry_zdiv, State.interruptState_eq]; rfl
  · rw [State.trapEntry_hardware_dbrk, State.interruptState_eq]

/-- Settles O16: a due zero division is looked at before everything else. -/
theorem dueZeroDivisionTaken : Obligations.DueZeroDivisionTaken := by
  intro s h hm hz hok hready
  obtain ⟨hstep, htaken⟩ := step_trap (offset := 16) h (State.boundary_due (s := s.atBoundary) hm hz _)
    (.withZdiv s.atBoundary .none) hready hok
  refine ⟨_, hstep, htaken, ?_, ?_, ?_⟩
  · rw [State.trapEntry_zdiv]
  · rw [State.trapEntry_nmiPending]
  · rw [State.trapEntry_hardware_dbrk]; rfl

end Sys2Proof.Machine

namespace Sys2Proof.Machine

/-! ### A raised zero division -/

/-- The state that a boundary answers. -/
def Boundary.state : Boundary → State
  | .taken s | .passed s => s

theorem State.takeDebug_zdiv (s : State) : s.takeDebug.zdiv = s.zdiv := by
  unfold State.takeDebug
  dsimp only
  split <;> exact s.debugEntry_zdiv s.pc s.debugCauses s.debugCauses2

theorem State.takeInterrupt_zdiv (s : State) (irq : Option IrqRequest) : (s.takeInterrupt irq).state.zdiv = s.zdiv := by
  unfold State.takeInterrupt
  split
  · dsimp only [Boundary.state]
    rw [State.trapEntry_zdiv]
  · split
    · split
      · dsimp only [Boundary.state]
        rw [State.trapEntry_zdiv]
      · rfl
    · rfl

/-- The other traps of a boundary leave a late zero division late. -/
theorem State.takeDebugOrInterrupt_zdiv (s : State) (irq : Option IrqRequest) :
    (s.takeDebugOrInterrupt irq).state.zdiv = s.zdiv := by
  have hdrawn : s.drawDataBreak.zdiv = s.zdiv := by rw [s.drawDataBreak_eq]
  unfold State.takeDebugOrInterrupt
  dsimp only
  split
  · split
    · exact s.drawDataBreak.takeDebug_zdiv.trans hdrawn
    · exact (s.drawDataBreak.takeInterrupt_zdiv irq).trans hdrawn
  · exact s.takeInterrupt_zdiv irq

/-- Settles O17: the draw of U5 makes the zero division due, and then it is taken, or late, and then every boundary keeps
it so. -/
theorem raisedZeroDivisionComes : Obligations.RaisedZeroDivisionComes := by
  intro s irq hm hz
  have hboundary : s.boundary irq =
      if s.drawZeroDivision.zdiv = .due then
        .taken ({ s.drawZeroDivision with zdiv := .none }.trapEntry .hardware 16#32 s.drawZeroDivision.pc none)
      else s.drawZeroDivision.takeDebugOrInterrupt irq := if_neg (by rw [hm]; decide)
  rw [hboundary, State.drawZeroDivision, if_pos hz]
  cases Config.zeroDivisionLate s.freeCount with
  | false => exact .inl rfl
  | true =>
    right
    have hlate := State.takeDebugOrInterrupt_zdiv { s with zdiv := .late } irq
    rw [if_pos rfl, if_neg (by simp)]
    cases hb : State.takeDebugOrInterrupt { s with zdiv := .late } irq with
    | passed u =>
      rw [hb] at hlate
      exact .inl ⟨u, rfl, hlate, fun i v => if_pos hlate⟩
    | taken u =>
      rw [hb] at hlate
      exact .inr ⟨u, rfl, hlate⟩

/-! ### Requests that leave no trace -/

/-- A boundary looks at the request only where it takes an interrupt. -/
theorem State.boundary_irq_congr {s : State} {irq irq' : Option IrqRequest}
    (h : ∀ t, PendingOnly s t → t.takeInterrupt irq = t.takeInterrupt irq') : s.boundary irq = s.boundary irq' := by
  have hz := s.drawZeroDivision_pendingOnly
  unfold State.boundary State.takeDebugOrInterrupt
  dsimp only
  rw [h _ hz, h _ (hz.trans (State.drawDataBreak_pendingOnly _))]

/-- In debugging mode a request waits; in user mode one that is not accepted is as none. -/
theorem State.takeInterrupt_unaccepted {s : State} {q : IrqRequest}
    (h : s.psr.getLsbD 4 = false ∨ q.level.toNat ≤ (s.psr.extractLsb' 8 4 : BitVec 4).toNat ∨ s.userMode = false) :
    s.takeInterrupt (some q) = s.takeInterrupt none := by
  unfold State.takeInterrupt
  cases hu : s.userMode with
  | false => rfl
  | true =>
    have hreject : s.acceptable (some q) = none := by
      refine Option.filter_eq_none_iff.mpr fun q' hq' => ?_
      obtain rfl := Option.some.inj hq'
      rw [Bool.and_eq_true_iff, decide_eq_true_eq]
      rintro ⟨hie, hlevel⟩
      obtain h | h | h := h
      · exact Bool.false_ne_true (h.symm.trans hie)
      · exact absurd hlevel (Nat.not_lt.mpr h)
      · rw [hu] at h; cases h
    rw [hreject]
    rfl

/-- Settles O14: the request is looked at only by `State.takeInterrupt`, the edge only by `State.latch`. -/
theorem ineffectiveRequestsIgnored : Obligations.IneffectiveRequestsIgnored := by
  refine ⟨fun s q hirq hpossible h => ?_, fun s harmed hedge => ?_⟩
  · have hboundary : s.atBoundary.boundary (some q) = s.atBoundary.boundary none :=
      State.boundary_irq_congr fun t ht => State.takeInterrupt_unaccepted (by rw [ht]; exact h)
    have hrun : s.atBoundary.runBoundary (some q) = s.atBoundary.runBoundary none := by
      unfold State.runBoundary
      rw [hboundary]
    change s.begun.runInput s.nextInput = s.begun.runInput { s.nextInput with irq := none }
    unfold State.runInput
    rw [hirq]
    dsimp only
    have hpossible' : impossibleRequest s.begun.cfg (some q) = false := hpossible
    rw [hpossible']
    change (match s.nextInput.reset with
      | some kind => Host.Outcome.next (s.begun.resetProcessing kind)
      | none => if s.atBoundary.busReleased then .next (s.atBoundary.masterWrites s.nextInput.busWrites)
        else s.atBoundary.runBoundary (some q)) = _
    rw [hrun]
    rfl
  · have hlatch : s.begun.latch s.nextInput = s.begun.latch { s.nextInput with nmiEdge := false } := by
      have harmed' : s.begun.nmiArmed = false := harmed
      rw [State.latch, State.latch, harmed', Bool.and_false, Bool.and_false]
    change s.begun.runInput s.nextInput = s.begun.runInput { s.nextInput with nmiEdge := false }
    unfold State.runInput
    rw [hlatch]

/-! ### The debugging exception of a boundary -/

/-- A debugging exception that saves its words in plain memory trips nothing. -/
theorem State.debugEntry_debugCtl_ok {s : State} (h : s.debugReady) (hok : s.debugCtl = .ok) (ret : Word)
    (causes causes2 : Byte) : (s.debugEntry ret causes causes2).debugCtl = .ok := by
  obtain ⟨hfirst, hsecond, -⟩ := State.plainBlock_add (m := 4) (n := 4) h.1
  have hbase : Config.debugBase s.cfg + 8#32 + BitVec.ofNat 32 4 = Config.debugBase s.cfg + 12#32 := by
    rw [BitVec.add_assoc]; rfl
  rw [hbase] at hsecond
  have hmisset : ¬s.debugCtl = .misset := by rw [hok]; decide
  rw [State.debugEntry_debugSaved]
  change (s.debugSaved ret).debugCtl = .ok
  unfold State.debugSaved
  dsimp only
  rw [if_neg hmisset, State.writeBytes_plain_debugCtl, State.writeBytes_plain_debugCtl hfirst, hok]
  exact (State.plainBlock_congr (by simp) (by simp) _ _).mpr hsecond

theorem DebugTaken.of_dbrk {s t : State} {dbrk dbrk' : Option DataBreak} {ret : Word} {causes causes2 : Byte}
    (h : DebugTaken { s with dbrk := dbrk } ret causes causes2 t) : DebugTaken s ret causes causes2 { t with dbrk := dbrk' } :=
  { h with }

/-- A debugging exception of a boundary uses up the data break that is due and keeps one that is not. -/
theorem State.takeDebug_eq (s : State) : s.takeDebug =
    { s.debugEntry s.pc s.debugCauses s.debugCauses2 with
      dbrk := if s.dueDataBreak.isSome then none else s.dbrk } := by
  unfold State.takeDebug
  dsimp only
  split
  · rfl
  · rw [← s.debugEntry_dbrk s.pc s.debugCauses s.debugCauses2]

/-- Each factor of a debugging exception has its bit in the first DSR byte (60_exceptions.md R458). -/
theorem State.debugCauses_bits (s : State) :
    s.debugCauses.getLsbD 1 = s.dcr.getLsbD 1 ∧
    s.debugCauses.getLsbD 2 = (s.dcr.getLsbD 2 && breakMatches s.ibar0 s.pc) ∧
    s.debugCauses.getLsbD 3 = (s.dcr.getLsbD 3 && breakMatches s.ibar1 s.pc) ∧
    s.debugCauses.getLsbD 4 = s.dueDataBreak.isSome ∧
    s.debugCauses.getLsbD 5 = (s.dueDataBreak.isSome && s.dueDataBreak.any (·.read)) ∧
    s.debugCauses.getLsbD 6 = (s.dueDataBreak.isSome && s.dueDataBreak.any (·.write)) ∧
    s.debugCauses &&& 0x81#8 = 0#8 := by
  rw [State.debugCauses_eq]
  exact causeByte_bits _ _ _ _ _ _

theorem State.debugCauses2_bit (s : State) :
    s.debugCauses2.getLsbD 0 = (s.dcr2.getLsbD 0 && breakMatches s.ibar2 s.pc) := by
  unfold State.debugCauses2 bitIf
  split
  · next h => rw [h]; rfl
  · next h => rw [Bool.eq_false_iff.mpr h]; rfl

/-- Settles O18: the causes bit by bit by `State.debugCauses_bits`, the rest by `State.debugEntry_taken`. -/
theorem debuggingExceptionTaken : Obligations.DebuggingExceptionTaken := by
  intro s h hm hz hr hu hok hready due hcause
  have hb := State.boundary_debug hm hz hr hu hcause s.nextInput.irq
  have hdraw : s.atBoundary.drawDataBreak = { s.atBoundary with dbrk := s.drawnBreak } :=
    s.drawDataBreak_dbrk ▸ s.atBoundary.drawDataBreak_eq
  have hdue := s.dueDataBreak_isSome
  have hread := s.dueDataBreak_any (kind := (·.read)) fun _ _ => rfl
  have hwrite := s.dueDataBreak_any (kind := (·.write)) fun _ _ => rfl
  generalize s.atBoundary.drawDataBreak = u at hb hdraw hdue hread hwrite
  have hready' : u.debugReady := by rw [hdraw]; exact hready
  have hok' : u.debugCtl = .ok := by rw [hdraw]; exact hok
  have htaken := State.debugEntry_taken hready' s.pc u.debugCauses u.debugCauses2
  have hpc : u.pc = s.pc := by rw [hdraw]; rfl
  have htake := u.takeDebug_eq
  rw [hpc] at htake
  obtain ⟨h1, h2, h3, h4, h5, h6, hrest⟩ := u.debugCauses_bits
  refine ⟨u.takeDebug, u.debugCauses, u.debugCauses2, ?step, ?taken, ?_, ?_, ?_, ?_, ?_, ?_, hrest, ?_,
    u.debugCauses2_and, ?used, ?stays⟩
  case step =>
    refine (step_taken h hb).trans (settle_of_ne ?_)
    have hctl := State.debugEntry_debugCtl_ok hready' hok' s.pc u.debugCauses u.debugCauses2
    rw [htake]
    exact fun htrip => nomatch hctl.symm.trans htrip
  case taken =>
    rw [htake]
    generalize u.debugCauses = causes at htaken ⊢
    generalize u.debugCauses2 = causes2 at htaken ⊢
    generalize u.debugEntry s.pc causes causes2 = t at htaken ⊢
    rw [hdraw] at htaken
    exact htaken.of_dbrk
  case used => exact fun hd => by rw [htake]; exact if_pos (hdue.mpr hd)
  case stays =>
    intro hd
    rw [htake]
    exact (if_neg (mt hdue.mp hd)).trans (by rw [hdraw])
  · rw [h1, hdraw]; rfl
  · rw [h2, Bool.and_eq_true_iff, breakMatches_iff, hdraw]; rfl
  · rw [h3, Bool.and_eq_true_iff, breakMatches_iff, hdraw]; rfl
  · rw [h4]; exact hdue
  · rw [h5, Bool.and_eq_true_iff, hdue, hread]; exact and_self_left
  · rw [h6, Bool.and_eq_true_iff, hdue, hwrite]; exact and_self_left
  · rw [u.debugCauses2_bit, Bool.and_eq_true_iff, breakMatches_iff, hdraw]; rfl

end Sys2Proof.Machine

/-! SUPPORT. The data transfer instructions (40_data_transfer.md): what each shape of load and store leaves behind, the address error, then their obligations. -/

namespace Sys2Proof.Machine

/-! ### Extended values -/

/-- A value extended with its sign, as a number. -/
theorem extended_true_eq {n : Nat} (v : BitVec n) :
    extended true v = BitVec.ofInt 32 ((v.toNat : Int).bmod (2 ^ n : Nat)) := by
  rw [extended, if_pos rfl, signExtend_eq_ofInt]

/-- A value extended with zeros, as a number. -/
theorem extended_false_eq {n : Nat} (v : BitVec n) : extended false v = BitVec.ofNat 32 v.toNat := by
  rw [extended, if_neg Bool.false_ne_true]
  exact BitVec.eq_of_toNat_eq (by rw [BitVec.toNat_setWidth, BitVec.toNat_ofNat])

theorem extended_eq_loadedWord {size : Size} (v : BitVec (8 * size.bytes)) (signed : Bool) :
    extended signed v = loadedWord size signed v.toNat := by
  cases signed
  · exact extended_false_eq v
  · exact (extended_true_eq v).trans (by simp [loadedWord])

/-- What a load puts into its register is the number in memory, extended (40_data_transfer.md R154). -/
theorem State.loadValue_eq (s : State) (access : Nat) {size : Size} {signed : Bool} (h : size = .word → signed = false)
    (x : Word) : s.loadValue access size signed x = loadedWord size signed (s.numberAt access x size.bytes) := by
  cases size with
  | byte => rw [State.loadValue, Size.bytes, ← State.read8_toNat]; exact extended_eq_loadedWord (size := .byte) _ _
  | half => rw [State.loadValue, Size.bytes, ← State.read16_toNat]; exact extended_eq_loadedWord (size := .half) _ _
  | word =>
    rw [h rfl, State.loadValue, Size.bytes, ← State.read32_toNat, loadedWord, if_neg Bool.false_ne_true,
      BitVec.ofNat_toNat, BitVec.setWidth_eq]

/-! ### Register moves -/

/-- An instruction that writes one register and goes to the next address. -/
theorem register_move {i : Instr} {s : State} {rd : Reg} {v w : Word} (hexec : exec i s = .next (s.setReg rd v).advance)
    (hv : v = w) : ∃ t, exec i s = .next t ∧ t.reg rd = w ∧ QuietFrame [rd] [] [] s t ∧ Advanced s t :=
  ⟨_, hexec, hv ▸ s.reg_setReg_self rd v, quietFrame_setReg s rd v, advanced_setReg s rd v⟩

theorem toNat_extractLsb'_zero {m : Nat} (x : BitVec m) (n : Nat) : (x.extractLsb' 0 n).toNat = x.toNat % 2 ^ n := by
  rw [BitVec.extractLsb'_toNat, Nat.shiftRight_zero]

/-- Settles O20: each form writes one register, the values by `extended_true_eq`, `extended_false_eq` and
`signOperand_eq`. -/
theorem registerLoadResults : Obligations.RegisterLoadResults := by
  intro s rd rs sign6
  have signed (n : Nat) : extended true ((s.reg rs).extractLsb' 0 n) =
      BitVec.ofInt 32 ((((s.reg rs).toNat % 2 ^ n : Nat) : Int).bmod (2 ^ n : Nat)) := by
    rw [extended_true_eq, toNat_extractLsb'_zero]
  have unsigned (n : Nat) : extended false ((s.reg rs).extractLsb' 0 n) =
      BitVec.ofInt 32 (((s.reg rs).toNat % 2 ^ n : Nat) : Int) := by
    rw [extended_false_eq, toNat_extractLsb'_zero, BitVec.ofInt_natCast]
  simp only [List.forall_mem_cons]
  refine ⟨?byte, ?ubyte, ?half, ?uhalf, ?word, ?imm, List.forall_mem_nil _⟩
  case byte => exact register_move rfl (signed 8)
  case ubyte => exact register_move rfl (unsigned 8)
  case half => exact register_move rfl (signed 16)
  case uhalf => exact register_move rfl (unsigned 16)
  case word => exact register_move rfl (by rw [BitVec.ofInt_natCast, BitVec.ofNat_toNat, BitVec.setWidth_eq])
  case imm => exact register_move rfl (signOperand_eq _ _)

/-- A word with bits 1:0 cleared, as a number. -/
theorem maskSp_eq_ofNat (v : Word) : maskSp v = BitVec.ofNat 32 (v.toNat / 4 * 4) := by
  have hmask : maskSp v = (v >>> 2) <<< 2 := by
    unfold maskSp
    ext k hk
    interval_cases k <;> simp
  apply BitVec.eq_of_toNat_eq
  rw [hmask, BitVec.toNat_shiftLeft, BitVec.toNat_ushiftRight, Nat.shiftLeft_eq, Nat.shiftRight_eq_div_pow,
    BitVec.toNat_ofNat]

/-- A register of the optional multiplier that is read without it leaves rd alone (40_data_transfer.md R184). -/
theorem optional_move {i : Instr} {s : State} {rd : Reg} {v : Word}
    (hexec : exec i s = .next (if s.cfg.hasMultiplier then (s.setReg rd v).advance else s.advance)) :
    ∃ t, exec i s = .next t ∧ t.reg rd = (if s.cfg.hasMultiplier then v else s.reg rd) ∧ QuietFrame [rd] [] [] s t ∧
      Advanced s t := by
  refine register_move (v := if s.cfg.hasMultiplier then v else s.reg rd) (hexec.trans ?_) rfl
  split
  · rfl
  · exact congrArg (fun regs => Host.Outcome.next (State.advance { s with regs := regs }))
      (Vector.set_getElem_self rd.isLt).symm

/-- Settles O21: the written registers by `maskSp_eq_ofNat` and a case split on the multiplier, the reads by
`register_move` and `optional_move`. -/
theorem specialRegisterMoves : Obligations.SpecialRegisterMoves := by
  intro s rd rs
  refine ⟨rfl, ?sp, ?alr, ?ahr, ?reads⟩
  case sp => rw [← maskSp_eq_ofNat]; rfl
  case alr =>
    change Host.Outcome.next (if _ then _ else _) = _
    split <;> rfl
  case ahr =>
    change Host.Outcome.next (if _ then _ else _) = _
    split <;> rfl
  case reads =>
    simp only [List.forall_mem_cons]
    exact ⟨register_move rfl rfl, register_move rfl rfl, optional_move rfl, optional_move rfl, List.forall_mem_nil _⟩

/-! ### Loads -/

/-- A load through an address changes its register and what the trace of the read changes. -/
theorem readFrame_load (s : State) (rd : Reg) (size : Size) (x v : Word) :
    ReadFrame [rd] [] [] s ((s.noteRead size x).setReg rd v).advance := by
  obtain ⟨hcore, hmapped, hmemory, haccesses⟩ := quietFrame_setReg (s.noteRead size x) rd v
  refine ⟨?_, (s.noteRead_mapped size x).trans hmapped, fun k a => (hmemory k a).trans (s.noteRead_memory size x k a), ?_⟩
  · constructor <;> simp
    exact fun r hr => by rw [State.reg_setReg_ne _ _ hr]; simp
  · simp

/-- The post-increment writes the base register after the loaded one. -/
theorem readFrame_loadPost (s : State) (rd rb : Reg) (size : Size) (x v w : Word) :
    ReadFrame [rd, rb] [] [] s (((s.noteRead size x).setReg rd v).setReg rb w).advance := by
  obtain ⟨hcore, hmapped, hmemory, hstores⟩ := readFrame_load s rd size x v
  refine ⟨{ hcore with regs := fun r hr => ?_ }, { hmapped with }, hmemory, hstores⟩
  obtain ⟨hd, hb⟩ : r ≠ rd ∧ r ≠ rb := by simpa using hr
  exact (State.reg_setReg_ne _ _ hb).trans (hcore.regs r (by simpa using hd))

/-- An aligned load gets the number at its address. -/
theorem load_result {i : Instr} {s : State} {rd : Reg} {size : Size} {signed : Bool} {x : Word}
    (hexec : exec i s = .next (s.loadTo rd size signed x)) (hword : size = .word → signed = false)
    (haligned : x.toNat % size.bytes = 0) :
    ∃ t, exec i s = .next t ∧ t.reg rd = loadedWord size signed (s.numberAt 1 x size.bytes) ∧
      ReadFrame [rd] [] [] s t ∧ Advanced s t := by
  refine ⟨_, hexec.trans (congrArg _ (State.loadTo_of_aligned haligned rd signed)), ?_, readFrame_load .., ?_⟩
  · exact (State.reg_setReg_self _ rd _).trans (s.loadValue_eq 1 hword x)
  · constructor <;> simp

/-- An aligned load with post-increment gets the number at its address and moves the base register. -/
theorem loadPost_result {i : Instr} {s : State} {rd rb : Reg} {size : Size} {signed : Bool}
    (hexec : exec i s = .next (s.loadPost rd rb size signed)) (hword : size = .word → signed = false)
    (haligned : (s.reg rb).toNat % size.bytes = 0) :
    ∃ t, exec i s = .next t ∧
      (rd ≠ rb → t.reg rd = loadedWord size signed (s.numberAt 1 (s.reg rb) size.bytes)) ∧
      t.reg rb = s.reg rb + BitVec.ofNat 32 size.bytes ∧ ReadFrame [rd, rb] [] [] s t ∧ Advanced s t := by
  refine ⟨_, hexec.trans (congrArg _ (State.loadPost_of_aligned haligned rd signed)), fun hne => ?_,
    State.reg_setReg_self _ rb _, readFrame_loadPost .., ?_⟩
  · exact (State.reg_setReg_ne _ _ hne).trans ((State.reg_setReg_self _ rd _).trans (s.loadValue_eq 1 hword _))
  · constructor <;> simp

/-- Settles O22: each form by `load_result` or `loadPost_result`. -/
theorem loadResults : Obligations.LoadResults := by
  intro s rd rb
  simp only [List.forall_mem_cons]
  refine ⟨⟨?_, ?_, ?_, ?_, ?_, List.forall_mem_nil _⟩, ?_, ?_, ?_, ?_, ?_, List.forall_mem_nil _⟩
  · exact load_result (exec_ldBInd s rd rb) nofun
  · exact load_result (exec_ldUbInd s rd rb) nofun
  · exact load_result (exec_ldHInd s rd rb) nofun
  · exact load_result (exec_ldUhInd s rd rb) nofun
  · exact load_result (exec_ldWInd s rd rb) fun _ => rfl
  · exact loadPost_result rfl nofun
  · exact loadPost_result rfl nofun
  · exact loadPost_result rfl nofun
  · exact loadPost_result rfl nofun
  · exact loadPost_result rfl fun _ => rfl

/-- An address on the stack is a multiple of the size, as SP is word aligned (40_data_transfer.md R152). -/
theorem State.stackAddress_aligned {s : State} (h : s.sp.toNat % 4 = 0) (size : Size) (imm6 : BitVec 6) :
    (s.stackAddress size imm6).toNat % size.bytes = 0 := by
  obtain ⟨k, hk⟩ : ∃ k, s.stackAddress size imm6 = s.sp + BitVec.ofNat 32 (k * size.bytes) := by
    unfold State.stackAddress
    split <;> exact ⟨_, rfl⟩
  rw [hk, BitVec.toNat_add, BitVec.toNat_ofNat]
  cases size <;> simp only [Size.bytes] <;> omega

/-- Settles O23: each form by `load_result` at an aligned address. -/
theorem stackLoadResults : Obligations.StackLoadResults := by
  intro s rd imm6 hsp
  simp only [List.forall_mem_cons]
  refine ⟨?_, ?_, ?_, ?_, ?_, List.forall_mem_nil _⟩
  · exact load_result (exec_ldBSp s rd imm6) nofun (s.stackAddress_aligned hsp _ _)
  · exact load_result (exec_ldUbSp s rd imm6) nofun (s.stackAddress_aligned hsp _ _)
  · exact load_result (exec_ldHSp s rd imm6) nofun (s.stackAddress_aligned hsp _ _)
  · exact load_result (exec_ldUhSp s rd imm6) nofun (s.stackAddress_aligned hsp _ _)
  · exact load_result (exec_ldWSp s rd imm6) (fun _ => rfl) (s.stackAddress_aligned hsp _ _)

/-! ### Stores -/

/-- What a completed store of `v` at `x` has to leave behind. -/
structure StoreDone (s : State) (size : Size) (x v : Word) (regs : List Reg) (t : State) : Prop where
  back : s.plainBlock x size.bytes →
    (∀ access, t.numberAt access x size.bytes = v.toNat % 256 ^ size.bytes) ∧ MappedFrame s t
  others : SameMemoryExcept (s.addresses x size.bytes) s t
  core : CoreFrame regs [] [] s t
  advanced : Advanced s t

/-- What a store left stays so when registers, PC and the pending `ext` change. -/
theorem Stored.ended {s t : State} {x v : Word} {n : Nat} (h : Stored s x v n t) (regs : Vector Word 16) :
    Stored s x v n (t.ended regs) :=
  h.trans_same ⟨rfl, rfl, rfl, rfl, rfl, rfl, rfl, rfl, rfl, rfl⟩ (fun _ _ => rfl) rfl rfl

theorem advanced_store (s : State) (size : Size) (x v : Word) (regs : Vector Word 16) :
    Advanced s ((s.store size x v).ended regs) := by
  constructor <;> simp [State.ended]

theorem StoreDone.of_store {s : State} (h : MappedBits s) (size : Size) (x v : Word) {rs : List Reg}
    {regs : Vector Word 16} (hcore : CoreFrame rs [] [] s ((s.store size x v).ended regs)) :
    StoreDone s size x v rs ((s.store size x v).ended regs) :=
  have hstored := (s.store_spec size x v).ended regs
  ⟨fun hplain => ⟨hstored.back hplain, hstored.mapped hplain⟩, hstored.others h, hcore, advanced_store ..⟩

theorem storeFrom_done {s : State} (h : MappedBits s) {size : Size} {x : Word} (haligned : x.toNat % size.bytes = 0)
    (rs : Reg) : StoreDone s size x (s.reg rs) [] (s.storeFrom rs size x) := by
  rw [State.storeFrom_of_aligned haligned]
  exact .of_store h size x _ (coreFrame_store s size x _)

theorem storePost_done {s : State} (h : MappedBits s) {size : Size} {rb : Reg}
    (haligned : (s.reg rb).toNat % size.bytes = 0) (rs : Reg) :
    StoreDone s size (s.reg rb) (s.reg rs) [rb] (s.storePost rb rs size) := by
  rw [State.storePost_of_aligned haligned]
  exact .of_store h size _ _ (coreFrame_storePost s size _ _ _ rb)

/-- The post-increment of a store. -/
theorem storePost_reg {s : State} {size : Size} {rb : Reg} (haligned : (s.reg rb).toNat % size.bytes = 0) (rs : Reg) :
    (s.storePost rb rs size).reg rb = s.reg rb + BitVec.ofNat 32 size.bytes := by
  rw [State.storePost_of_aligned haligned, State.advance_reg, State.reg_setReg_self]

section
variable {i : Instr} {s : State} (h : s.Inv) {size : Size}
include h

theorem store_result {x : Word} {rb rs : Reg} (hexec : exec i s = .next (s.storeFrom rs size x))
    (haligned : x.toNat % size.bytes = 0) :
    ∃ t, exec i s = .next t ∧
      (s.plainBlock x size.bytes →
        (∀ access, t.numberAt access x size.bytes = (s.reg rs).toNat % 256 ^ size.bytes) ∧ MappedFrame s t) ∧
      SameMemoryExcept (s.addresses x size.bytes) s t ∧ CoreFrame [] [] [] s t ∧
      (false = true → t.reg rb = s.reg rb + BitVec.ofNat 32 size.bytes) ∧ Advanced s t :=
  have ⟨hback, hothers, hcore, hadvanced⟩ := storeFrom_done h.mappedBits haligned rs
  ⟨_, hexec, hback, hothers, hcore, nofun, hadvanced⟩

theorem storePost_result {rb rs : Reg} (hexec : exec i s = .next (s.storePost rb rs size))
    (haligned : (s.reg rb).toNat % size.bytes = 0) :
    ∃ t, exec i s = .next t ∧
      (s.plainBlock (s.reg rb) size.bytes →
        (∀ access, t.numberAt access (s.reg rb) size.bytes = (s.reg rs).toNat % 256 ^ size.bytes) ∧ MappedFrame s t) ∧
      SameMemoryExcept (s.addresses (s.reg rb) size.bytes) s t ∧ CoreFrame [rb] [] [] s t ∧
      (true = true → t.reg rb = s.reg rb + BitVec.ofNat 32 size.bytes) ∧ Advanced s t :=
  have ⟨hback, hothers, hcore, hadvanced⟩ := storePost_done h.mappedBits haligned rs
  ⟨_, hexec, hback, hothers, hcore, fun _ => storePost_reg haligned rs, hadvanced⟩

/-- A store on the stack is aligned whatever the displacement, as SP is. -/
theorem stackStore_result {rs : Reg} {imm6 : BitVec 6}
    (hexec : exec i s = .next (s.storeFrom rs size (s.stackAddress size imm6))) :
    ∃ t, exec i s = .next t ∧
      (s.plainBlock (s.stackAddress size imm6) size.bytes →
        (∀ access, t.numberAt access (s.stackAddress size imm6) size.bytes = (s.reg rs).toNat % 256 ^ size.bytes) ∧
          MappedFrame s t) ∧
      SameMemoryExcept (s.addresses (s.stackAddress size imm6) size.bytes) s t ∧ CoreFrame [] [] [] s t ∧ Advanced s t :=
  have haligned := State.stackAddress_aligned ((and_three_eq_zero_iff s.sp).mp h.spAligned) size imm6
  have ⟨hback, hothers, hcore, hadvanced⟩ := storeFrom_done h.mappedBits haligned rs
  ⟨_, hexec, hback, hothers, hcore, hadvanced⟩

end

/-- Settles O24: each form by `store_result` or `storePost_result`. -/
theorem storeResults : Obligations.StoreResults := by
  intro s rb rs hinv
  repeat rw [List.forall_mem_cons]
  refine ⟨?_, ?_, ?_, ?_, ?_, ?_, List.forall_mem_nil _⟩
  · exact store_result hinv (exec_stBInd s rb rs)
  · exact store_result hinv (exec_stHInd s rb rs)
  · exact store_result hinv (exec_stWInd s rb rs)
  · exact storePost_result hinv (i := .stBPost rb rs) rfl
  · exact storePost_result hinv (i := .stHPost rb rs) rfl
  · exact storePost_result hinv (i := .stWPost rb rs) rfl

/-- Settles O25: each form by `stackStore_result`. -/
theorem stackStoreResults : Obligations.StackStoreResults := by
  intro s rs imm6 hinv
  simp only [List.forall_mem_cons]
  refine ⟨?_, ?_, ?_, List.forall_mem_nil _⟩
  · exact stackStore_result hinv (exec_stBSp s rs imm6)
  · exact stackStore_result hinv (exec_stHSp s rs imm6)
  · exact stackStore_result hinv (exec_stWSp s rs imm6)

/-- A byte write that meets ROM, a device or nothing, or the window that user mode may not write, is ignored. -/
theorem State.writeByte_ineffective {s : State} {a : Nat}
    (h : (mappedByte? a = none ∧ kindAt s.cfg a ≠ .ram) ∨ (0x78000 ≤ a ∧ a ≤ 0x7FFFF ∧ s.userMode = true)) (b : Byte) :
    s.writeByte a b = s := by
  unfold State.writeByte
  split
  · rfl
  · next hguard =>
    obtain ⟨hm, hk⟩ := h.resolve_right hguard
    rw [hm]
    cases hkind : kindAt s.cfg a <;> simp_all

theorem State.writeBytes_ineffective {s : State} {x v : Word} {n : Nat}
    (h : ∀ a ∈ s.addresses x n,
      (mappedByte? a = none ∧ kindAt s.cfg a ≠ .ram) ∨ (0x78000 ≤ a ∧ a ≤ 0x7FFFF ∧ s.userMode = true)) :
    s.writeBytes x v n = s := by
  induction n with
  | zero => rfl
  | succ n ih =>
    rw [State.addresses_succ, List.forall_mem_append] at h
    rw [State.writeBytes, ih h.1, State.writeByte_ineffective (h.2 _ List.mem_cons_self)]

/-- Settles O26: such a store leaves only its traces, by `State.writeBytes_ineffective`. -/
theorem ineffectiveStores : Obligations.IneffectiveStores := by
  intro s size x v h
  have hmapped := s.noteWrite_mapped size x
  have hstore : s.store size x v = s.noteWrite size x := by
    refine State.writeBytes_ineffective fun a ha => ?_
    rw [hmapped.userMode, State.noteWrite_cfg]
    rw [State.addresses_congr (State.noteWrite_cfg s size x)] at ha
    exact h a ha
  rw [hstore]
  exact ⟨s.noteWrite_memory size x, hmapped⟩

/-! ### The address error -/

theorem State.loadTo_of_misaligned {s : State} {size : Size} {x : Word} (h : x.toNat % size.bytes ≠ 0) (rd : Reg)
    (signed : Bool) : s.loadTo rd size signed x = s.addressError := if_pos ((misaligned_iff size x).mpr h)

theorem State.loadPost_of_misaligned {s : State} {size : Size} {rb : Reg} (h : (s.reg rb).toNat % size.bytes ≠ 0)
    (rd : Reg) (signed : Bool) : s.loadPost rd rb size signed = s.addressError := if_pos ((misaligned_iff size _).mpr h)

theorem State.storeFrom_of_misaligned {s : State} {size : Size} {x : Word} (h : x.toNat % size.bytes ≠ 0) (rs : Reg) :
    s.storeFrom rs size x = s.addressError := if_pos ((misaligned_iff size x).mpr h)

theorem State.storePost_of_misaligned {s : State} {size : Size} {rb : Reg} (h : (s.reg rb).toNat % size.bytes ≠ 0)
    (rs : Reg) : s.storePost rb rs size = s.addressError := if_pos ((misaligned_iff size _).mpr h)

/-- An instruction that ends in the address error exception. -/
theorem addressError_result {i : Instr} {s : State} (h : s.stackReady 24) (hexec : exec i s = .next s.addressError) :
    ∃ t, exec i s = .next t ∧ TrapTaken s 24 s.pc none t ∧ t.dbrk = s.dbrk ∧ t.zdiv = s.zdiv ∧
      t.nmiPending = s.nmiPending :=
  ⟨_, hexec, s.addressError_taken h, s.addressError_dbrk, State.trapEntry_zdiv .., State.trapEntry_nmiPending ..⟩

/-- Settles O28: each form ends in the address error exception. -/
theorem misalignedAccessTraps : Obligations.MisalignedAccessTraps := by
  intro s rd rb rs hready
  have loads {i : Instr} {size : Size} {signed : Bool} (hexec : exec i s = .next (s.loadTo rd size signed (s.baseAddress rb)))
      (h : (s.baseAddress rb).toNat % size.bytes ≠ 0) :=
    addressError_result hready (hexec.trans (congrArg _ (State.loadTo_of_misaligned h rd signed)))
  have posts {i : Instr} {size : Size} {signed : Bool} (hexec : exec i s = .next (s.loadPost rd rb size signed))
      (h : (s.reg rb).toNat % size.bytes ≠ 0) :=
    addressError_result hready (hexec.trans (congrArg _ (State.loadPost_of_misaligned h rd signed)))
  have stores {i : Instr} {size : Size} (hexec : exec i s = .next (s.storeFrom rs size (s.baseAddress rb)))
      (h : (s.baseAddress rb).toNat % size.bytes ≠ 0) :=
    addressError_result hready (hexec.trans (congrArg _ (State.storeFrom_of_misaligned h rs)))
  have storePosts {i : Instr} {size : Size} (hexec : exec i s = .next (s.storePost rb rs size))
      (h : (s.reg rb).toNat % size.bytes ≠ 0) :=
    addressError_result hready (hexec.trans (congrArg _ (State.storePost_of_misaligned h rs)))
  simp only [List.forall_mem_cons]
  refine ⟨?_, ?_, ?_, ?_, ?_, ?_, ?_, ?_, ?_, ?_, List.forall_mem_nil _⟩
  · exact loads (size := .half) (exec_ldHInd s rd rb)
  · exact loads (size := .half) (exec_ldUhInd s rd rb)
  · exact loads (size := .word) (exec_ldWInd s rd rb)
  · exact posts (size := .half) rfl
  · exact posts (size := .half) rfl
  · exact posts (size := .word) rfl
  · exact stores (size := .half) (exec_stHInd s rb rs)
  · exact stores (size := .word) (exec_stWInd s rb rs)
  · exact storePosts (size := .half) rfl
  · exact storePosts (size := .word) rfl

/-! ### What the accesses record -/

theorem loadForm_recorded {s : State} {size : Size} {rd rb : Reg} {imm6 : BitVec 6} {p : Instr × Word}
    (hp : p ∈ s.loadForms size rd rb imm6) :
    ∃ t, exec p.1 s = .next t ∧ (p.2.toNat % size.bytes = 0 → BreakRecorded s [p.2] [] t) ∧
      (p.2.toNat % size.bytes ≠ 0 → t.dbrk = s.dbrk) := by
  obtain ⟨signed, hexec | ⟨hx, hexec⟩⟩ := exec_loadForms hp
  · exact ⟨_, hexec, s.loadTo_recorded rd size signed p.2⟩
  · exact ⟨_, hexec, hx ▸ s.loadPost_recorded rd rb size signed⟩

theorem storeForm_recorded {s : State} {size : Size} {rb rs : Reg} {imm6 : BitVec 6} {p : Instr × Word}
    (hp : p ∈ s.storeForms size rb rs imm6) :
    ∃ t, exec p.1 s = .next t ∧ (p.2.toNat % size.bytes = 0 → BreakRecorded s [] [p.2] t) ∧
      (p.2.toNat % size.bytes ≠ 0 → t.dbrk = s.dbrk) := by
  obtain hexec | ⟨hx, hexec⟩ := exec_storeForms hp
  · exact ⟨_, hexec, s.storeFrom_recorded rs size p.2⟩
  · exact ⟨_, hexec, hx ▸ s.storePost_recorded rb rs size⟩

/-- `btst` reads its byte. -/
theorem btst_recorded (s : State) (rb : Reg) (imm3 : BitVec 3) :
    ∃ t, exec (.btst rb imm3) s = .next t ∧ BreakRecorded s [s.baseAddress rb] [] t := by
  rw [← State.indirect_eq]
  exact ⟨_, rfl, (s.noteRead_recorded .byte (s.indirect rb)).congr rfl⟩

/-- One repeat of `mac` on even pointers. -/
theorem exec_mac_repeat {s : State} {rs : Reg} (hm : s.cfg.hasMultiplier = true) (hcount : s.reg rs ≠ 0#32)
    (h1 : (s.reg (nextReg rs 1)).toNat % 2 = 0) (h2 : (s.reg (nextReg rs 2)).toNat % 2 = 0) :
    exec (.mac rs) s = .next (s.macRepeat rs) := by
  change execMac rs s = _
  rw [execMac, hm, beq_eq_false_iff_ne.mpr hcount, misaligned_false (size := .half) h1, misaligned_false (size := .half) h2]
  rfl

/-- A register `k` places after another. -/
theorem nextReg_eq {r p : Reg} {k : Nat} (h : p.val = (r.val + k) % 16) : nextReg r k = p :=
  Fin.ext (by simp [nextReg, h])

/-- Settles O29: each form by the `_recorded` lemma of its shape. -/
theorem dataBreakArmed : Obligations.DataBreakArmed := by
  intro s rd rb rs imm6 imm3 imm2 d
  refine ⟨fun size p hp => loadForm_recorded hp, fun size p hp => storeForm_recorded hp, ?others, ?mac⟩
  case others =>
    have rewrites {i : Instr} {f : Byte → Byte} (hexec : exec i s = .next (s.rewriteByte (s.indirect rb) f)) :
        ∃ t, exec i s = .next t ∧ BreakRecorded s [s.baseAddress rb] [s.baseAddress rb] t := by
      rw [← State.indirect_eq]
      exact ⟨_, hexec, s.rewriteByte_recorded _ f⟩
    simp only [List.forall_mem_cons]
    refine ⟨btst_recorded s rb imm3, rewrites rfl, rewrites rfl, rewrites rfl, ?_, ?_, ?_, ?_, ?_, ?_, ?_, ?_, ?_, ?_, ?_,
      List.forall_mem_nil _⟩
    · exact ⟨_, rfl, (State.pushRegs_recorded (rs.val + 1) s).congr rfl⟩
    · exact ⟨_, rfl, (State.popRegs_recorded (rd.val + 1) s).1.congr rfl⟩
    · exact ⟨_, rfl, s.callTo_recorded false _⟩
    · exact ⟨_, rfl, s.callTo_recorded true _⟩
    · exact ⟨_, rfl, s.callTo_recorded false _⟩
    · exact ⟨_, rfl, s.callTo_recorded true _⟩
    · exact ⟨_, rfl, s.returnBy_recorded false⟩
    · exact ⟨_, rfl, s.returnBy_recorded true⟩
    · exact ⟨_, rfl, s.trapReturn_recorded⟩
    · exact ⟨_, rfl, s.trapEntry_recorded _ _ none⟩
    · exact ⟨_, rfl, s.debugReturn_recorded⟩
  case mac =>
    intro p1 p2 hm h1 h2 hcount heven1 heven2
    obtain rfl := nextReg_eq h1
    obtain rfl := nextReg_eq h2
    exact ⟨_, exec_mac_repeat hm hcount heven1 heven2, s.macRepeat_recorded rs⟩

end Sys2Proof.Machine

/-! SUPPORT. Arithmetic, multiplication, scan, swap, mirror and the system instructions (42_arithmetic.md, 43_multiply_divide_mac.md section 2, 48_system_ext_misc.md): the flags and values in exact arithmetic, then their obligations. -/

namespace Sys2Proof.Machine

/-! ### Instructions that change only the core -/

/-- What writes only registers of the core makes no data access and changes nothing else. -/
theorem quietFrame_core {s : State} {regs : List Reg} {bits : List Nat} {specials : List SpecialReg}
    {regs' : Vector Word 16} {pc psr sp alr ahr : Word} {ext : Ext} {delay : Option Word} (hregs : ∀ r, r ∉ regs → regs'[r] = s.reg r)
    (hflags : ∀ k, k ∉ bits → psr.getLsbD k = s.psr.getLsbD k) (hsp : .sp ∉ specials → sp = s.sp)
    (halr : .alr ∉ specials → alr = s.alr) (hahr : .ahr ∉ specials → ahr = s.ahr) :
    QuietFrame regs bits specials s
      { s with regs := regs', pc := pc, psr := psr, sp := sp, alr := alr, ahr := ahr, ext := ext, delay := delay } where
  core := ⟨hregs, hflags, hsp, halr, hahr, rfl, rfl, rfl, rfl, rfl, rfl, rfl, rfl, rfl, rfl, rfl⟩
  mapped := ⟨rfl, rfl, rfl, rfl, rfl, rfl, rfl, rfl, rfl, rfl⟩
  memory := fun _ _ => rfl
  accesses := ⟨rfl, rfl, rfl⟩

/-! ### C, V, Z and N of a result -/

section
variable (p : Word) (r : ArithResult)

theorem getLsbD_withArith_c : (withArith p r).getLsbD 3 = r.c := by
  rw [withArith, getLsbD_withBit_of_ne _ _ (by decide), getLsbD_withBit_of_ne _ _ (by decide),
    getLsbD_withBit_of_ne _ _ (by decide)]
  exact getLsbD_withBit_self _ _ (by decide)

theorem getLsbD_withArith_v : (withArith p r).getLsbD 2 = r.v := by
  rw [withArith, getLsbD_withBit_of_ne _ _ (by decide), getLsbD_withBit_of_ne _ _ (by decide)]
  exact getLsbD_withBit_self _ _ (by decide)

theorem getLsbD_withArith_z : (withArith p r).getLsbD 1 = r.z := by
  rw [withArith, getLsbD_withBit_of_ne _ _ (by decide)]
  exact getLsbD_withBit_self _ _ (by decide)

theorem getLsbD_withArith_n : (withArith p r).getLsbD 0 = r.n :=
  getLsbD_withBit_self _ _ (by decide)

theorem getLsbD_withArith_other {k : Nat} (h : k ∉ [0, 1, 2, 3]) : (withArith p r).getLsbD k = p.getLsbD k :=
  getLsbD_withArith_of_notMem p r fun hk => h (List.mem_reverse.mp hk)

end

theorem quietFrame_resultArith (s : State) (rd : Reg) (r : ArithResult) :
    QuietFrame [rd] [0, 1, 2, 3] [] s (s.resultArith rd r) :=
  quietFrame_core (fun _ hq => State.reg_setReg_ne s r.res (by simpa using hq)) (fun _ => getLsbD_withArith_other s.psr r)
    (fun _ => rfl) (fun _ => rfl) fun _ => rfl

theorem quietFrame_flags (s : State) (r : ArithResult) :
    QuietFrame [] [0, 1, 2, 3] [] s (State.advance { s with psr := withArith s.psr r }) :=
  quietFrame_core (fun _ _ => rfl) (fun _ => getLsbD_withArith_other s.psr r) (fun _ => rfl) (fun _ => rfl) fun _ => rfl

/-! ### Addition -/

/-- A signed word as its number with the weight of its sign bit. -/
theorem toInt_eq_sub (a : Word) : a.toInt = (a.toNat : Int) - if a.msb then 2 ^ 32 else 0 := by
  rw [BitVec.toInt_eq_msb_cond]
  split <;> simp

theorem msb_eq_decide_le (a : Word) : a.msb = decide (2 ^ 31 ≤ a.toNat) := BitVec.msb_eq_decide a

/-- The three-input sum as a number of 33 bits. -/
theorem sum33_toNat (a b : Word) (c : Bool) :
    (a.setWidth 33 + b.setWidth 33 + (BitVec.ofBool c).setWidth 33 : BitVec 33).toNat = a.toNat + b.toNat + c.toNat := by
  simp only [BitVec.toNat_add, BitVec.toNat_setWidth, BitVec.toNat_ofBool]
  have := c.toNat_le
  omega

theorem addFlags_res (a b : Word) (c : Bool) :
    (addFlags a b c).res.toNat = (a.toNat + b.toNat + c.toNat) % 2 ^ 32 := by
  rw [addFlags, BitVec.toNat_setWidth, sum33_toNat]

theorem addFlags_c (a b : Word) (c : Bool) :
    (addFlags a b c).c = true ↔ 2 ^ 32 ≤ a.toNat + b.toNat + c.toNat := by
  have hmsb := BitVec.msb_eq_decide (a.setWidth 33 + b.setWidth 33 + (BitVec.ofBool c).setWidth 33 : BitVec 33)
  rw [BitVec.msb_eq_getLsbD_last, sum33_toNat] at hmsb
  exact (Bool.eq_iff_iff.mp hmsb).trans decide_eq_true_iff

theorem addFlags_v (a b : Word) (c : Bool) :
    (addFlags a b c).v = true ↔ a.toInt + b.toInt + c.toNat < -2 ^ 31 ∨ 2 ^ 31 ≤ a.toInt + b.toInt + c.toNat := by
  have hres := addFlags_res a b c
  have hc := c.toNat_le
  change (a.msb == b.msb && (addFlags a b c).res.msb != a.msb) = true ↔ _
  generalize (addFlags a b c).res = res at hres ⊢
  rw [toInt_eq_sub a, toInt_eq_sub b]
  simp only [msb_eq_decide_le, Bool.and_eq_true, beq_iff_eq, bne_iff_ne, ne_eq, decide_eq_decide, decide_eq_true_eq]
  split <;> split <;> omega

/-- An addition does what the spec says, `k` being the carry it adds. -/
theorem addition_result {i : Instr} {s : State} {rd : Reg} {a b : Word} {c : Bool}
    (hexec : exec i s = .next (s.resultArith rd (addFlags a b c))) :
    ∃ t, exec i s = .next t ∧ (t.reg rd).toNat = (a.toNat + b.toNat + c.toNat) % 2 ^ 32 ∧
      (t.psr.getLsbD 3 = true ↔ 2 ^ 32 ≤ a.toNat + b.toNat + c.toNat) ∧
      (t.psr.getLsbD 2 = true ↔ a.toInt + b.toInt + c.toNat < -2 ^ 31 ∨ 2 ^ 31 ≤ a.toInt + b.toInt + c.toNat) ∧
      (t.psr.getLsbD 1 = true ↔ t.reg rd = 0#32) ∧ t.psr.getLsbD 0 = (t.reg rd).getLsbD 31 ∧
      QuietFrame [rd] [0, 1, 2, 3] [] s t ∧ Advanced s t := by
  have hreg : (s.resultArith rd (addFlags a b c)).reg rd = (addFlags a b c).res := State.reg_setReg_self _ rd _
  refine ⟨_, hexec, ?_, ?_, ?_, ?_, ?_, quietFrame_resultArith .., rfl, rfl, rfl⟩
  · rw [hreg, addFlags_res]
  · rw [State.resultArith_psr, getLsbD_withArith_c, addFlags_c]
  · rw [State.resultArith_psr, getLsbD_withArith_v, addFlags_v]
  · rw [State.resultArith_psr, getLsbD_withArith_z, hreg]
    exact beq_iff_eq
  · rw [State.resultArith_psr, getLsbD_withArith_n, hreg]
    exact (addFlags a b c).res.msb_eq_getLsbD_last

/-- Settles O31: each form by its operands and `addition_result`. -/
theorem additionResults : Obligations.AdditionResults := by
  intro s rd rs imm6
  simp only [List.forall_mem_cons]
  refine ⟨addition_result (c := false) ?reg, addition_result (c := false) ?imm, addition_result rfl, List.forall_mem_nil _⟩
  case reg =>
    change execAddReg rd rs s = _
    rw [execAddReg, registerOperands_eq]
  case imm =>
    change execAddImm rd imm6 s = _
    rw [execAddImm, immOperand_eq]

/-! ### Subtraction -/

theorem subFlags_res (a b : Word) (c : Bool) :
    (subFlags a b c).res = BitVec.ofInt 32 ((a.toNat : Int) - b.toNat - c.toNat) := by
  have hc := c.toNat_le
  apply BitVec.eq_of_toNat_eq
  simp only [subFlags, BitVec.toNat_sub, BitVec.toNat_setWidth, BitVec.toNat_ofBool, BitVec.toNat_ofInt]
  omega

theorem subFlags_c (a b : Word) (c : Bool) : (subFlags a b c).c = true ↔ a.toNat < b.toNat + c.toNat :=
  decide_eq_true_iff

theorem subFlags_v (a b : Word) (c : Bool) :
    (subFlags a b c).v = true ↔ a.toInt - b.toInt - c.toNat < -2 ^ 31 ∨ 2 ^ 31 ≤ a.toInt - b.toInt - c.toNat := by
  have hres := congrArg BitVec.toNat (subFlags_res a b c)
  rw [BitVec.toNat_ofInt] at hres
  have hc := c.toNat_le
  change (a.msb != b.msb && (subFlags a b c).res.msb != a.msb) = true ↔ _
  generalize (subFlags a b c).res = res at hres ⊢
  rw [toInt_eq_sub a, toInt_eq_sub b]
  simp only [msb_eq_decide_le, Bool.and_eq_true, bne_iff_ne, ne_eq, decide_eq_decide, decide_eq_true_eq]
  split <;> split <;> omega

/-- What the flags of a subtraction or comparison say. -/
structure SubtractionFlags (a b : Word) (k : Nat) (d psr : Word) : Prop where
  difference : d = BitVec.ofInt 32 ((a.toNat : Int) - b.toNat - k)
  c : psr.getLsbD 3 = true ↔ a.toNat < b.toNat + k
  v : psr.getLsbD 2 = true ↔ a.toInt - b.toInt - k < -2 ^ 31 ∨ 2 ^ 31 ≤ a.toInt - b.toInt - k
  z : psr.getLsbD 1 = true ↔ d = 0#32
  n : psr.getLsbD 0 = d.getLsbD 31

theorem subtractionFlags (a b : Word) (c : Bool) (p : Word) :
    SubtractionFlags a b c.toNat (subFlags a b c).res (withArith p (subFlags a b c)) where
  difference := subFlags_res a b c
  c := by rw [getLsbD_withArith_c, subFlags_c]
  v := by rw [getLsbD_withArith_v, subFlags_v]
  z := by rw [getLsbD_withArith_z]; exact beq_iff_eq
  n := (getLsbD_withArith_n _ _).trans (subFlags a b c).res.msb_eq_getLsbD_last

theorem exec_cmpReg (s : State) (rd rs : Reg) : exec (.cmpReg rd rs) s =
    .next (State.advance { s with psr := withArith s.psr (subFlags (s.leftOperand rd rs) (s.rightOperand rs) false) }) := by
  change execCmpReg rd rs s = _
  rw [execCmpReg, registerOperands_eq]

/-- The two shapes, with and without a result register (42_arithmetic.md R227 to R232). -/
def SubtractionShape (i : Instr) (s : State) (rd : Reg) (r : ArithResult) (writes : Bool) : Prop :=
  exec i s = .next (if writes then s.resultArith rd r else State.advance { s with psr := withArith s.psr r })

theorem subtraction_result {i : Instr} {s : State} {rd : Reg} {a b : Word} {c writes : Bool}
    (hexec : SubtractionShape i s rd (subFlags a b c) writes) :
    ∃ t d, exec i s = .next t ∧ d = BitVec.ofInt 32 ((a.toNat : Int) - b.toNat - c.toNat) ∧
      (writes = true → t.reg rd = d) ∧ (t.psr.getLsbD 3 = true ↔ a.toNat < b.toNat + c.toNat) ∧
      (t.psr.getLsbD 2 = true ↔ a.toInt - b.toInt - c.toNat < -2 ^ 31 ∨ 2 ^ 31 ≤ a.toInt - b.toInt - c.toNat) ∧
      (t.psr.getLsbD 1 = true ↔ d = 0#32) ∧ t.psr.getLsbD 0 = d.getLsbD 31 ∧
      QuietFrame (if writes then [rd] else []) [0, 1, 2, 3] [] s t ∧ Advanced s t := by
  obtain ⟨hd, hc, hv, hz, hn⟩ := subtractionFlags a b c s.psr
  cases writes with
  | true =>
    exact ⟨_, _, hexec, hd, fun _ => State.reg_setReg_self _ rd _, hc, hv, hz, hn, quietFrame_resultArith .., rfl, rfl, rfl⟩
  | false => exact ⟨_, _, hexec, hd, nofun, hc, hv, hz, hn, quietFrame_flags .., rfl, rfl, rfl⟩

/-- Settles O32: each form by its operands and `subtraction_result`. -/
theorem subtractionResults : Obligations.SubtractionResults := by
  intro s rd rs imm6
  repeat rw [List.forall_mem_cons]
  refine ⟨subtraction_result (c := false) ?reg, subtraction_result (c := false) ?imm, subtraction_result rfl,
    subtraction_result (c := false) (exec_cmpReg s rd rs), subtraction_result (c := false) ?cmpImm, List.forall_mem_nil _⟩
  case reg =>
    change execSubReg rd rs s = _
    rw [execSubReg, registerOperands_eq]
    rfl
  case imm =>
    change execSubImm rd imm6 s = _
    rw [execSubImm, immOperand_eq]
    rfl
  case cmpImm =>
    change execCmpImm rd imm6 s = _
    rw [execCmpImm, signOperand_eq]
    rfl

/-! ### The stack pointer -/

theorem spImmediate_toNat (imm10 : BitVec 10) : (spImmediate imm10).toNat = 4 * imm10.toNat := by
  rw [spImmediate, BitVec.toNat_setWidth, toNat_append_field]
  simp only [BitVec.toNat_ofNat]
  omega

theorem quietFrame_sp (s : State) (v : Word) : QuietFrame [] [] [.sp] s (State.advance { s with sp := v }) :=
  quietFrame_core (fun _ _ => rfl) (fun _ _ => rfl) (absurd List.mem_cons_self) (fun _ => rfl) fun _ => rfl

/-- Settles O33. -/
theorem stackPointerArithmetic : Obligations.StackPointerArithmetic := by
  intro s imm10
  refine ⟨⟨_, rfl, ?_, quietFrame_sp s _, rfl, rfl, rfl⟩, _, rfl, ?_, quietFrame_sp s _, rfl, rfl, rfl⟩
  · rw [State.advance_sp, BitVec.toNat_add, spImmediate_toNat]
  · rw [State.advance_sp, BitVec.toNat_sub, spImmediate_toNat, Nat.add_comm]

/-! ### Multiplication -/

theorem quietFrame_alr (s : State) (v : Word) : QuietFrame [] [] [.alr] s (State.advance { s with alr := v }) :=
  quietFrame_core (fun _ _ => rfl) (fun _ _ => rfl) (fun _ => rfl) (absurd List.mem_cons_self) fun _ => rfl

theorem quietFrame_accumulator (s : State) (ahr alr : Word) :
    QuietFrame [] [] [.alr, .ahr] s (State.advance { s with ahr := ahr, alr := alr }) :=
  quietFrame_core (fun _ _ => rfl) (fun _ _ => rfl) (fun _ => rfl) (absurd List.mem_cons_self)
    (absurd (List.mem_cons_of_mem _ List.mem_cons_self))

/-- The pair AHR, ALR holds the 64-bit value. -/
theorem accumulator_toNat (v : BitVec 64) :
    (v.extractLsb' 32 32).toNat * 2 ^ 32 + (v.extractLsb' 0 32).toNat = v.toNat := by
  rw [BitVec.extractLsb'_toNat, BitVec.extractLsb'_toNat, Nat.shiftRight_eq_div_pow, Nat.shiftRight_zero]
  omega

/-- A low half word as a signed number. -/
theorem toInt_low16 (x : Word) :
    (x.extractLsb' 0 16).toInt = ((x.toNat % 65536 : Nat) : Int).bmod 65536 := by
  rw [BitVec.toInt_eq_toNat_bmod, toNat_extractLsb'_zero]
  rfl

/-- The product of two signed half words fits a signed word. -/
theorem mulSigned16_toInt (a b : Word) :
    (mulSigned16 a b).toInt = (a.extractLsb' 0 16).toInt * (b.extractLsb' 0 16).toInt := by
  have ha := abs_le.mpr ⟨(a.extractLsb' 0 16).le_toInt, ((a.extractLsb' 0 16).toInt_lt).le⟩
  have hb := abs_le.mpr ⟨(b.extractLsb' 0 16).le_toInt, ((b.extractLsb' 0 16).toInt_lt).le⟩
  have hab := abs_le.mp ((abs_mul _ _).trans_le (mul_le_mul ha hb (abs_nonneg _) (by positivity)))
  rw [mulSigned16, BitVec.toInt_ofInt]
  apply Int.bmod_eq_of_le <;> omega

/-- The product of two unsigned half words fits a word. -/
theorem mulUnsigned16_toNat (a b : Word) :
    (mulUnsigned16 a b).toNat = (a.toNat % 65536) * (b.toNat % 65536) := by
  have hab : (a.toNat % 65536) * (b.toNat % 65536) < 65536 * 65536 :=
    Nat.mul_lt_mul'' (Nat.mod_lt _ (by decide)) (Nat.mod_lt _ (by decide))
  rw [mulUnsigned16, BitVec.toNat_ofNat, toNat_extractLsb'_zero, toNat_extractLsb'_zero]
  exact Nat.mod_eq_of_lt hab

/-- The product of two unsigned words fits the accumulator. -/
theorem mulUnsigned32_toNat (a b : Word) : (mulUnsigned32 a b).toNat = a.toNat * b.toNat := by
  have hab : a.toNat * b.toNat < 2 ^ 32 * 2 ^ 32 := Nat.mul_lt_mul'' a.isLt b.isLt
  rw [mulUnsigned32, BitVec.toNat_ofNat]
  exact Nat.mod_eq_of_lt hab

/-- A 64-bit number in the accumulator, modulo 2 ^ 64. -/
theorem accumulator_ofInt (x : Int) :
    (((BitVec.ofInt 64 x).extractLsb' 32 32).toNat : Int) * 2 ^ 32 + ((BitVec.ofInt 64 x).extractLsb' 0 32).toNat =
      x % 2 ^ 64 := by
  have h := accumulator_toNat (BitVec.ofInt 64 x)
  rw [BitVec.toNat_ofInt] at h
  omega

section
variable {s : State} (hm : s.cfg.hasMultiplier = true) (rd rs : Reg)
include hm

theorem exec_mltH : exec (.mltH rd rs) s =
    .next (State.advance { s with alr := mulSigned16 (s.reg rd) (s.reg rs) }) := congrArg Host.Outcome.next (if_pos hm)

theorem exec_mltuH : exec (.mltuH rd rs) s =
    .next (State.advance { s with alr := mulUnsigned16 (s.reg rd) (s.reg rs) }) := congrArg Host.Outcome.next (if_pos hm)

theorem exec_mltW : exec (.mltW rd rs) s = .next (s.setAccumulator (mulSigned32 (s.reg rd) (s.reg rs))).advance :=
  congrArg Host.Outcome.next (if_pos hm)

theorem exec_mltuW : exec (.mltuW rd rs) s = .next (s.setAccumulator (mulUnsigned32 (s.reg rd) (s.reg rs))).advance :=
  congrArg Host.Outcome.next (if_pos hm)

end

/-- Settles O35: with the multiplier each form writes its product, in exact arithmetic by the lemmas above. -/
theorem multiplicationResults : Obligations.MultiplicationResults := by
  intro s rd rs hm
  refine ⟨⟨_, exec_mltH hm rd rs, ?_, quietFrame_alr s _, rfl, rfl, rfl⟩,
    ⟨_, exec_mltuH hm rd rs, mulUnsigned16_toNat _ _, quietFrame_alr s _, rfl, rfl, rfl⟩,
    ⟨_, exec_mltW hm rd rs, accumulator_ofInt _, quietFrame_accumulator s _ _, rfl, rfl, rfl⟩,
    _, exec_mltuW hm rd rs, ?_, quietFrame_accumulator s _ _, rfl, rfl, rfl⟩
  · rw [← toInt_low16, ← toInt_low16]
    exact mulSigned16_toInt _ _
  · exact (accumulator_toNat _).trans (mulUnsigned32_toNat _ _)

/-- Settles O36: every meaning of the option asks for the multiplier first. -/
theorem optionAbsentIsNop : Obligations.OptionAbsentIsNop := by
  intro s rd rs field hm
  have hne : ¬s.cfg.hasMultiplier = true := by rw [hm]; exact Bool.false_ne_true
  simp only [List.forall_mem_cons]
  refine ⟨congrArg _ (if_neg hne), congrArg _ (if_neg hne), congrArg _ (if_neg hne), congrArg _ (if_neg hne), if_neg hne,
    if_neg hne, if_neg hne, if_neg hne, if_neg fun h => hne h.1, if_pos ?mac, List.forall_mem_nil _⟩
  case mac => rw [hm]; rfl

/-! ### System instructions, scan, swap and mirror -/

/-- Settles O54. -/
theorem systemInstructions : Obligations.SystemInstructions := by
  intro s imm13
  have hext {e : Ext} (h : s.ext = e) :
      exec (.ext imm13) s = .next { s with pc := s.pc + 2#32, ext := e.extend imm13 } := by rw [← h]; rfl
  exact ⟨rfl, rfl, rfl, hext, fun _ => hext, fun _ _ => hext⟩

/-- The offset a scan finds (48_system_ext_misc.md R381, R382). -/
theorem scanOffset_spec (bit : Bool) (v : Word) :
    scanOffset bit v ≤ 8 ∧ (∀ k < scanOffset bit v, v.getLsbD (31 - k) = !bit) ∧
      (scanOffset bit v < 8 → v.getLsbD (31 - scanOffset bit v) = bit) := by
  unfold scanOffset
  cases hfind : (List.range 8).find? fun k => v.getLsbD (31 - k) == bit with
  | none =>
    have hall := List.find?_eq_none.mp hfind
    refine ⟨le_refl 8, fun k hk => ?_, fun h => absurd h (lt_irrefl 8)⟩
    exact Bool.eq_not.mpr (by simpa using hall k (List.mem_range.mpr hk))
  | some n =>
    obtain ⟨hn, hmem, hbefore⟩ := List.find?_range_eq_some.mp hfind
    refine ⟨(List.mem_range.mp hmem).le, fun k hk => ?_, fun _ => beq_iff_eq.mp hn⟩
    exact Bool.eq_not.mpr (by simpa using hbefore k hk)

/-- A scan writes its offset with its flags and does nothing else. -/
theorem scan_result {i : Instr} {s : State} {rd : Reg} {bit : Bool} {v : Word}
    (hexec : exec i s = .next (s.resultScan rd (scanOffset bit v))) :
    ∃ t n, exec i s = .next t ∧ n ≤ 8 ∧ (t.reg rd).toNat = n ∧ (∀ k < n, v.getLsbD (31 - k) = !bit) ∧
      (n < 8 → v.getLsbD (31 - n) = bit) ∧ (t.psr.getLsbD 3 = true ↔ n = 8) ∧ t.psr.getLsbD 2 = false ∧
      (t.psr.getLsbD 1 = true ↔ n = 0) ∧ t.psr.getLsbD 0 = false ∧ QuietFrame [rd] [0, 1, 2, 3] [] s t ∧ Advanced s t := by
  obtain ⟨hle, hbefore, hat⟩ := scanOffset_spec bit v
  generalize scanOffset bit v = n at hexec hle hbefore hat
  have hflags : withScan s.psr n = withArith s.psr ⟨BitVec.ofNat 32 n, n == 8, false, n == 0, false⟩ := rfl
  refine ⟨_, n, hexec, hle, ?_, hbefore, hat, ?_, ?_, ?_, ?_,
    quietFrame_resultArith s rd ⟨BitVec.ofNat 32 n, n == 8, false, n == 0, false⟩, rfl, rfl, rfl⟩
  · rw [State.resultScan, State.advance_reg, State.reg_setReg_self, BitVec.toNat_ofNat]
    omega
  · rw [State.resultScan_psr, hflags, getLsbD_withArith_c, beq_iff_eq]
  · rw [State.resultScan_psr, hflags, getLsbD_withArith_v]
  · rw [State.resultScan_psr, hflags, getLsbD_withArith_z, beq_iff_eq]
  · rw [State.resultScan_psr, hflags, getLsbD_withArith_n]

/-- Settles O55. -/
theorem scanResults : Obligations.ScanResults := by
  intro s rd rs
  simp only [List.forall_mem_cons]
  exact ⟨scan_result rfl, scan_result rfl, List.forall_mem_nil _⟩

/-- The bits of four bytes side by side. -/
theorem getLsbD_fourBytes {w : Word} {b : Nat → Byte} (h : w = b 3 ++ b 2 ++ b 1 ++ b 0) {j k : Nat} (hj : j < 4)
    (hk : k < 8) : w.getLsbD (8 * j + k) = (b j).getLsbD k := by
  have happend : w.getLsbD (8 * j + k) = (b 3 ++ b 2 ++ b 1 ++ b 0).getLsbD (8 * j + k) := 
    congrArg (fun x : Word => x.getLsbD (8 * j + k)) h
  simp only [happend, BitVec.getLsbD_append]
  interval_cases j
  · rw [if_pos (by omega), Nat.mul_zero, Nat.zero_add]
  · rw [if_neg (by omega), if_pos (by omega), Nat.mul_one, Nat.add_sub_cancel_left]
  · rw [if_neg (by omega), if_neg (by omega), if_pos (by omega)]
    congr 1
    omega
  · rw [if_neg (by omega), if_neg (by omega), if_neg (by omega)]
    congr 1
    omega

theorem getLsbD_swapBytes (v : Word) {j k : Nat} (hj : j < 4) (hk : k < 8) :
    (swapBytes v).getLsbD (8 * j + k) = v.getLsbD (8 * (3 - j) + k) := by
  rw [getLsbD_fourBytes (w := swapBytes v) (b := fun j => v.extractLsb' (8 * (3 - j)) 8) ?_ hj hk, BitVec.getLsbD_extractLsb',
    decide_eq_true hk, Bool.true_and]
  simp only [swapBytes, Nat.reduceSub, Nat.reduceMul]

theorem getLsbD_mirrorBytes (v : Word) {j k : Nat} (hj : j < 4) (hk : k < 8) :
    (mirrorBytes v).getLsbD (8 * j + k) = v.getLsbD (8 * j + 7 - k) := by
  rw [getLsbD_fourBytes (w := mirrorBytes v) (b := fun j => (v.extractLsb' (8 * j) 8).reverse) rfl hj hk, BitVec.getLsbD_reverse,
    BitVec.getMsbD_eq_getLsbD, BitVec.getLsbD_extractLsb', decide_eq_true hk, decide_eq_true (by omega),
    Bool.true_and, Bool.true_and, Nat.add_sub_assoc (by omega)]

/-- Settles O56, by the bits of four bytes side by side. -/
theorem swapMirrorResults : Obligations.SwapMirrorResults := by
  intro s rd rs
  refine ⟨⟨_, rfl, fun j hj k hk => ?_, quietFrame_setReg .., advanced_setReg ..⟩,
    _, rfl, fun j hj k hk => ?_, quietFrame_setReg .., advanced_setReg ..⟩ <;>
  rw [State.advance_reg, State.reg_setReg_self]
  · exact getLsbD_swapBytes _ hj hk
  · exact getLsbD_mirrorBytes _ hj hk

end Sys2Proof.Machine

/-! SUPPORT. Step division (43_multiply_divide_mac.md section 3): the start, one step and the corrections in exact arithmetic, the invariant of the 32 steps, then the obligations. -/

namespace Sys2Proof.Machine

/-! ### The start -/

theorem State.raiseZeroDivision_eq (s : State) (divisor : Word) : s.raiseZeroDivision divisor =
    { s with zdiv := if divisor = 0#32 ∧ s.zdiv = .none then .raised else s.zdiv } := by
  unfold State.raiseZeroDivision
  split <;> rfl

/-- `s` after `div0s` or `div0u`: AHR, DS and N are written and a zero divisor is raised. -/
def State.divisionStart (s : State) (divisor ahr : Word) (ds n : Bool) : State :=
  State.advance { s with
    ahr := ahr
    psr := withBit (withBit s.psr bitDS ds) bitN n
    zdiv := if divisor = 0#32 ∧ s.zdiv = .none then .raised else s.zdiv }

theorem exec_div0s {s : State} (hm : s.cfg.hasMultiplier = true) (rs : Reg) : exec (.div0s rs) s =
    .next (s.divisionStart (s.reg rs) (if s.alr.msb then 0xFFFFFFFF#32 else 0#32) s.alr.msb (s.reg rs).msb) := by
  refine (if_pos hm).trans ?_
  rw [State.raiseZeroDivision_eq]
  rfl

theorem exec_div0u {s : State} (hm : s.cfg.hasMultiplier = true) (rs : Reg) : exec (.div0u rs) s =
    .next (s.divisionStart (s.reg rs) 0#32 false false) := by
  refine (if_pos hm).trans ?_
  rw [State.raiseZeroDivision_eq]
  rfl

section
variable (s : State) (divisor ahr : Word) (ds n : Bool)

theorem divisionStart_ds : (s.divisionStart divisor ahr ds n).psr.getLsbD 6 = ds :=
  (getLsbD_withBit_of_ne _ _ (by decide)).trans (getLsbD_withBit_self _ _ (by decide))

theorem divisionStart_n : (s.divisionStart divisor ahr ds n).psr.getLsbD 0 = n :=
  getLsbD_withBit_self _ _ (by decide)

/-- The two bits of a division start are the only ones it writes. -/
theorem getLsbD_divisionStart {k : Nat} (h : k ∉ [0, 6]) :
    (s.divisionStart divisor ahr ds n).psr.getLsbD k = s.psr.getLsbD k := by
  obtain ⟨hN, hDS⟩ : k ≠ bitN ∧ k ≠ bitDS := by simpa [bitN, bitDS] using h
  exact (getLsbD_withBit_of_ne _ _ hN).trans (getLsbD_withBit_of_ne _ _ hDS)

theorem quietFrame_divisionStart :
    QuietFrame [] [0, 6] [.ahr] s { s.divisionStart divisor ahr ds n with zdiv := s.zdiv } :=
  quietFrame_core (fun _ _ => rfl) (fun _ => getLsbD_divisionStart s divisor ahr ds n) (fun _ => rfl) (fun _ => rfl)
    (absurd List.mem_cons_self)

end

/-- The sign of a word fills the upper word. -/
theorem signFill_toNat (x : Word) :
    ((if x.msb then 0xFFFFFFFF#32 else 0#32 : Word).toNat : Int) = (x.toInt / 2 ^ 32) % 2 ^ 32 := by
  have hlt := x.isLt
  rw [toInt_eq_sub]
  have hmsb := msb_eq_decide_le x
  cases h : x.msb <;> rw [h] at hmsb <;> simp only [if_true, Bool.false_eq_true, if_false, BitVec.toNat_ofNat]
  · omega
  · have := of_decide_eq_true hmsb.symm
    omega

/-- Settles O37: both forms are a `State.divisionStart`. -/
theorem divisionStart : Obligations.DivisionStart := by
  intro s rs hm
  refine ⟨⟨_, exec_div0s hm rs, signFill_toNat s.alr, ?_, ?_, rfl, quietFrame_divisionStart .., rfl, rfl, rfl⟩,
    _, exec_div0u hm rs, rfl, divisionStart_ds .., divisionStart_n .., rfl, quietFrame_divisionStart .., rfl, rfl, rfl⟩
  · rw [divisionStart_ds, BitVec.msb_eq_toInt, decide_eq_true_iff]
  · rw [divisionStart_n, BitVec.msb_eq_toInt, decide_eq_true_iff]

/-! ### One step -/

/-- The partial remainder: AHR shifted left with the top bit of ALR. -/
def partialRemainder (ahr alr : Word) : Nat := (2 * ahr.toNat + alr.toNat / 2 ^ 31) % 2 ^ 32

/-- What a step would leave as the remainder, of the partial remainder and the divisor as signed 33-bit numbers. -/
def trialRemainder (ds n : Nat) (divisor shifted : Nat) : Int :=
  if ds = n then ((shifted : Int) - ds * 2 ^ 32) - ((divisor : Int) - n * 2 ^ 32)
  else ((shifted : Int) - ds * 2 ^ 32) + ((divisor : Int) - n * 2 ^ 32)

theorem partialRemainder_eq (ahr alr : Word) :
    (ahr.extractLsb' 0 31 ++ alr.extractLsb' 31 1).toNat = partialRemainder ahr alr := by
  rw [toNat_append_field, toNat_extractLsb'_zero, BitVec.extractLsb'_toNat, Nat.shiftRight_eq_div_pow, partialRemainder]
  omega

theorem shiftedQuotient_eq (alr : Word) : (alr.extractLsb' 0 31 ++ 0#1).toNat = 2 * alr.toNat % 2 ^ 32 := by
  rw [toNat_append_field, toNat_extractLsb'_zero, BitVec.toNat_ofNat]
  omega

/-- Setting the lowest bit of an even word adds 1. -/
theorem or_one_toNat {x : Word} (h : x.toNat % 2 = 0) : (x ||| 1#32).toNat = x.toNat + 1 := by
  have hshift : x.toNat = (x.toNat / 2) <<< 1 := by rw [Nat.shiftLeft_eq]; omega
  rw [BitVec.toNat_or, hshift, BitVec.toNat_ofNat, ← Nat.shiftLeft_add_eq_or_of_lt (by decide)]

/-- The trial remainder as the model computes it, in 33 bits. -/
def trial33 (ds n : Bool) (divisor shifted : Word) : BitVec 33 :=
  if ds = n then (BitVec.ofBool ds ++ shifted) - (BitVec.ofBool n ++ divisor)
  else (BitVec.ofBool ds ++ shifted) + (BitVec.ofBool n ++ divisor)

theorem trial33_toNat (ds n : Bool) (divisor shifted : Word) :
    ((trial33 ds n divisor shifted).toNat : Int) = trialRemainder ds.toNat n.toNat divisor.toNat shifted.toNat % 2 ^ 33 := by
  have ha : (BitVec.ofBool ds ++ shifted).toNat = ds.toNat * 2 ^ 32 + shifted.toNat := by
    rw [toNat_append_field, BitVec.toNat_ofBool]
  have hb : (BitVec.ofBool n ++ divisor).toNat = n.toNat * 2 ^ 32 + divisor.toNat := by
    rw [toNat_append_field, BitVec.toNat_ofBool]
  unfold trial33 trialRemainder
  cases ds <;> cases n <;>
    simp only [if_true, Bool.false_eq_true, Bool.true_eq_false, if_false, BitVec.toNat_sub, BitVec.toNat_add, ha, hb,
      Bool.toNat_true, Bool.toNat_false, zero_ne_one, one_ne_zero] <;>
    omega

theorem divisionStep_eq (ds n : Bool) (divisor ahr alr : Word) :
    divisionStep ds n divisor ahr alr =
      if (trial33 ds n divisor (ahr.extractLsb' 0 31 ++ alr.extractLsb' 31 1)).getLsbD 32 = ds then
        ((trial33 ds n divisor (ahr.extractLsb' 0 31 ++ alr.extractLsb' 31 1)).extractLsb' 0 32,
          (alr.extractLsb' 0 31 ++ 0#1) ||| 1#32)
      else (ahr.extractLsb' 0 31 ++ alr.extractLsb' 31 1, alr.extractLsb' 0 31 ++ 0#1) := rfl

/-- The trial remainder keeps the sign DS. -/
def KeepsSign (ds n : Nat) (divisor shifted : Nat) : Prop :=
  trialRemainder ds n divisor shifted % 2 ^ 33 ≥ 2 ^ 32 ↔ ds = 1

section
variable (ds n : Bool) (divisor ahr alr : Word)

theorem trial33_keepsSign (shifted : Word) : (trial33 ds n divisor shifted).getLsbD 32 = ds ↔
    KeepsSign ds.toNat n.toNat divisor.toNat shifted.toNat := by
  have hmsb := BitVec.msb_eq_decide (trial33 ds n divisor shifted)
  rw [BitVec.msb_eq_getLsbD_last] at hmsb
  have htrial := trial33_toNat ds n divisor shifted
  rw [KeepsSign, ← htrial, show (trial33 ds n divisor shifted).getLsbD 32 = _ from hmsb]
  cases ds <;> simp

/-- A step whose trial remainder keeps the sign takes it, with a quotient bit 1. -/
theorem divisionStep_keeps (h : KeepsSign ds.toNat n.toNat divisor.toNat (partialRemainder ahr alr)) :
    ((divisionStep ds n divisor ahr alr).1.toNat : Int) =
        trialRemainder ds.toNat n.toNat divisor.toNat (partialRemainder ahr alr) % 2 ^ 32 ∧
      (divisionStep ds n divisor ahr alr).2.toNat = 2 * alr.toNat % 2 ^ 32 + 1 := by
  rw [← partialRemainder_eq] at h ⊢
  have htrial := trial33_toNat ds n divisor (ahr.extractLsb' 0 31 ++ alr.extractLsb' 31 1)
  rw [divisionStep_eq, if_pos ((trial33_keepsSign ..).mpr h)]
  refine ⟨?_, ?_⟩
  · have hlow := toNat_extractLsb'_zero (trial33 ds n divisor (ahr.extractLsb' 0 31 ++ alr.extractLsb' 31 1)) 32
    dsimp only
    omega
  · have heven := shiftedQuotient_eq alr
    rw [or_one_toNat (by omega), heven]

/-- Any other step only shifts. -/
theorem divisionStep_shifts (h : ¬KeepsSign ds.toNat n.toNat divisor.toNat (partialRemainder ahr alr)) :
    (divisionStep ds n divisor ahr alr).1.toNat = partialRemainder ahr alr ∧
      (divisionStep ds n divisor ahr alr).2.toNat = 2 * alr.toNat % 2 ^ 32 := by
  rw [← partialRemainder_eq] at h ⊢
  rw [divisionStep_eq, if_neg fun hk => h ((trial33_keepsSign ..).mp hk)]
  exact ⟨rfl, shiftedQuotient_eq alr⟩

end

/-! ### The corrections -/

section
variable {s : State} (hm : s.cfg.hasMultiplier = true)
include hm

theorem exec_div1 (rs : Reg) : exec (.div1 rs) s = .next (State.advance { s with
    ahr := (divisionStep (s.psr.getLsbD 6) (s.psr.getLsbD 0) (s.reg rs) s.ahr s.alr).1
    alr := (divisionStep (s.psr.getLsbD 6) (s.psr.getLsbD 0) (s.reg rs) s.ahr s.alr).2 }) := if_pos hm

theorem exec_div2s (rs : Reg) : exec (.div2s rs) s = .next (State.advance { s with
    ahr := (divisionCorrection (s.psr.getLsbD 6) (s.psr.getLsbD 0) (s.reg rs) s.ahr s.alr).1
    alr := (divisionCorrection (s.psr.getLsbD 6) (s.psr.getLsbD 0) (s.reg rs) s.ahr s.alr).2 }) := if_pos hm

theorem exec_div3s (field : BitVec 4) : exec (.div3s field) s = .next (State.advance { s with
    alr := if s.psr.getLsbD 6 = s.psr.getLsbD 0 then s.alr else -s.alr }) := by
  change (if _ then _ else _) = _
  rw [hm]
  by_cases h : s.psr.getLsbD 6 = s.psr.getLsbD 0
  · rw [if_neg fun hne => hne.2 h, if_pos h]
  · rw [if_pos ⟨rfl, h⟩, if_neg h]

end

/-- The remainder is the divisor in magnitude, with the other sign. -/
def RemainderIsDivisor (n : Nat) (divisor ahr : Word) : Prop :=
  ((ahr.toNat : Int) + (if n = 0 then (divisor.toNat : Int) else -divisor.toNat)) % 2 ^ 32 = 0

theorem divisionCorrection_cond (n : Bool) (divisor ahr : Word) :
    (if n then ahr - divisor else ahr + divisor) = 0#32 ↔ RemainderIsDivisor n.toNat divisor ahr := by
  unfold RemainderIsDivisor
  rw [BitVec.toNat_inj.symm]
  cases n <;> simp [BitVec.toNat_sub, BitVec.toNat_add] <;> omega

theorem divisionCorrection_grows {ds n : Bool} {divisor ahr : Word} (alr : Word)
    (h : ds.toNat = 1 ∧ RemainderIsDivisor n.toNat divisor ahr) :
    divisionCorrection ds n divisor ahr alr = (0#32, alr + 1#32) :=
  if_pos ⟨Bool.toNat_eq_one.mp h.1, (divisionCorrection_cond ..).mpr h.2⟩

theorem divisionCorrection_stays {ds n : Bool} {divisor ahr : Word} (alr : Word)
    (h : ¬(ds.toNat = 1 ∧ RemainderIsDivisor n.toNat divisor ahr)) :
    divisionCorrection ds n divisor ahr alr = (ahr, alr) :=
  if_neg fun hc => h ⟨Bool.toNat_eq_one.mpr hc.1, (divisionCorrection_cond ..).mp hc.2⟩

theorem bool_toNat_inj {a b : Bool} (h : a.toNat = b.toNat) : a = b := by
  cases a <;> cases b <;> simp_all

/-- Settles O38, by the equations of the three instructions. -/
theorem divisionSteps : Obligations.DivisionSteps := by
  intro s rs field hm ds n shifted a b r keeps
  refine ⟨⟨_, exec_div1 hm rs, divisionStep_keeps _ _ _ _ _, divisionStep_shifts _ _ _ _ _,
      quietFrame_accumulator s _ _, rfl, rfl, rfl⟩,
    ⟨_, exec_div2s hm rs, fun h => ?grows, fun h => ?stays, quietFrame_accumulator s _ _, rfl, rfl, rfl⟩,
    _, exec_div3s hm field, fun h => ?negates, fun h => ?keeps, quietFrame_alr s _, rfl, rfl, rfl⟩
  case grows =>
    rw [State.advance_ahr, State.advance_alr, divisionCorrection_grows s.alr h, BitVec.toNat_add]
    exact ⟨rfl, rfl⟩
  case stays =>
    rw [State.advance_ahr, State.advance_alr, divisionCorrection_stays s.alr h]
    exact ⟨rfl, rfl⟩
  case negates =>
    rw [State.advance_alr, if_neg fun heq => h (congrArg Bool.toNat heq), BitVec.toNat_neg]
    have := s.alr.isLt
    omega
  case keeps => exact if_pos (bool_toNat_inj h)

end Sys2Proof.Machine

/-! SUPPORT. The division sequences (43_multiply_divide_mac.md R257, R263): an invariant of the 32 steps that covers both sequences, then the obligations. -/

namespace Sys2Proof.Machine

/-! ### The invariant of the steps -/

/-- The sign that DS stands for. -/
def divisionSign (ds : Bool) : Int := if ds then -1 else 1

/-- A partial remainder with the sign DS and not beyond the divisor, whose magnitude is `M`. -/
def RemainderRange (ds : Bool) (M : Nat) (x : Int) : Prop :=
  if ds then -(M : Int) ≤ x ∧ x < 0 else 0 ≤ x ∧ x < M

/-- After `k` of the 32 steps of a division of `A` by a divisor of magnitude `M`: AHR holds the partial remainder `x`,
ALR the part `rest` of the dividend that is still to come, above the quotient `q` found so far. -/
structure Dividing (ds : Bool) (M : Nat) (A : Int) (k : Nat) (ahr alr : Word) (rest q : Nat) (x : Int) : Prop where
  remainder : (ahr.toNat : Int) = x + ds.toNat * 2 ^ 32
  parts : alr.toNat = rest * 2 ^ k + q
  rest_lt : rest < 2 ^ (32 - k)
  quotient_lt : q < 2 ^ k
  range : RemainderRange ds M x
  bound : -((2 ^ k : Nat) : Int) ≤ x ∧ x < ((2 ^ k : Nat) : Int)
  value : A = (divisionSign ds * q * M + x) * ((2 ^ (32 - k) : Nat) : Int) + rest

/-- `M` is the magnitude of the divisor, which N says to be negative. -/
structure DivisorMagnitude (n : Bool) (divisor : Word) (M : Nat) : Prop where
  eq : (M : Int) = if n then 2 ^ 32 - (divisor.toNat : Int) else (divisor.toNat : Int)
  pos : 0 < M
  lt : M < 2 ^ 32

/-- The parts of ALR after one more shift, `P` being 2 to the number of steps done and `P * Q` half the range. -/
theorem parts_shift {P Q rest q alr : Nat} (hPQ : P * Q = 2 ^ 31) (hrest : rest < 2 * Q) (hq : q < P)
    (halr : alr = rest * P + q) :
    alr / 2 ^ 31 = rest / Q ∧ 2 * alr % 2 ^ 32 = rest % Q * (2 * P) + 2 * q := by
  have hQ : 0 < Q := Nat.pos_of_ne_zero fun h => by simp [h] at hrest
  have hb : rest / Q < 2 := (Nat.div_lt_iff_lt_mul hQ).mpr hrest
  have hsplit : rest * P = rest / Q * 2 ^ 31 + rest % Q * P := by
    rw [← hPQ, Nat.mul_comm P Q, ← Nat.mul_assoc, ← Nat.add_mul, Nat.mul_comm _ Q, Nat.div_add_mod]
  have hlow : rest % Q * P + P ≤ 2 ^ 31 := by
    calc rest % Q * P + P = (rest % Q + 1) * P := (Nat.succ_mul _ P).symm
      _ ≤ Q * P := Nat.mul_le_mul_right P (Nat.mod_lt _ hQ)
      _ = 2 ^ 31 := by rw [Nat.mul_comm, hPQ]
  have hdouble : rest % Q * (2 * P) = 2 * (rest % Q * P) := Nat.mul_left_comm _ _ _
  rw [hdouble]
  generalize rest % Q * P = Y at hsplit hlow
  generalize rest / Q = b at hb hsplit
  omega

/-- A remainder in its range, as AHR holds it. -/
theorem RemainderRange.emod_eq {ds : Bool} {M : Nat} {x : Int} (h : RemainderRange ds M x) (hM : M < 2 ^ 32) :
    x % 2 ^ 32 = x + ds.toNat * 2 ^ 32 := by
  cases ds <;> simp [RemainderRange] at h ⊢ <;> omega

/-- Where the remainder lies after a step, `y` being the partial remainder with its next bit. -/
theorem remainderRange_step {ds : Bool} {M P : Nat} {x y : Int} {b : Nat} (hy : y = 2 * x + b) (hb : b < 2)
    (hrange : RemainderRange ds M x) (hbound : -(P : Int) ≤ x ∧ x < P) :
    ((if ds then y + M < 0 else (M : Int) ≤ y) → RemainderRange ds M (y - divisionSign ds * M) ∧
      -((2 * P : Nat) : Int) ≤ y - divisionSign ds * M ∧ y - divisionSign ds * M < ((2 * P : Nat) : Int)) ∧
    (¬(if ds then y + M < 0 else (M : Int) ≤ y) →
      RemainderRange ds M y ∧ -((2 * P : Nat) : Int) ≤ y ∧ y < ((2 * P : Nat) : Int)) := by
  cases ds <;> simp only [RemainderRange, divisionSign, if_true, Bool.false_eq_true, if_false] at hrange ⊢ <;> omega

section
variable {ds n : Bool} {divisor ahr alr : Word} {M : Nat} {A : Int} {k rest q : Nat} {x : Int}

/-- The trial remainder is the partial remainder brought nearer to 0 by the divisor. -/
theorem trialRemainder_eq (hM : DivisorMagnitude n divisor M) {shifted : Nat} {y : Int}
    (hy : (shifted : Int) - ds.toNat * 2 ^ 32 = y) :
    trialRemainder ds.toNat n.toNat divisor.toNat shifted = y - divisionSign ds * M := by
  rw [hM.eq, trialRemainder, divisionSign, hy]
  cases ds <;> cases n <;> simp; ring

/-- It keeps the sign exactly if the partial remainder does not lie before the divisor. -/
theorem keepsSign_iff (hM : DivisorMagnitude n divisor M) {shifted : Nat} {y : Int}
    (hy : (shifted : Int) - ds.toNat * 2 ^ 32 = y) (hlt : shifted < 2 ^ 32) :
    KeepsSign ds.toNat n.toNat divisor.toNat shifted ↔ if ds then y + M < 0 else (M : Int) ≤ y := by
  have hMlt := hM.lt
  rw [KeepsSign, trialRemainder_eq hM hy]
  cases ds <;> simp [divisionSign] at hy ⊢ <;> omega

/-- The partial remainder takes the next bit of the dividend. -/
theorem partialRemainder_step (h : Dividing ds M A k ahr alr rest q x) (hk : k < 32) {Q : Nat} (hb : rest / Q < 2)
    (htop : alr.toNat / 2 ^ 31 = rest / Q) :
    (partialRemainder ahr alr : Int) - ds.toNat * 2 ^ 32 = 2 * x + (rest / Q : Nat) := by
  have hpow : 2 ^ k ≤ 2 ^ 31 := Nat.pow_le_pow_right (by decide) (by omega)
  obtain ⟨hlow, hhigh⟩ := h.bound
  have hrem := h.remainder
  have hrange := h.range
  rw [partialRemainder, htop]
  generalize rest / Q = b at hb
  generalize 2 ^ k = P at hpow hlow hhigh
  cases ds <;> simp [RemainderRange] at hrem hrange ⊢ <;> omega

/-- One step keeps the invariant. -/
theorem Dividing.step (h : Dividing ds M A k ahr alr rest q x) (hk : k < 32) (hM : DivisorMagnitude n divisor M) :
    ∃ rest' q' x', Dividing ds M A (k + 1) (divisionStep ds n divisor ahr alr).1 (divisionStep ds n divisor ahr alr).2
      rest' q' x' := by
  have hpow : 2 ^ (32 - k) = 2 * 2 ^ (31 - k) := by rw [← pow_succ', ← Nat.sub_add_comm (by omega)]
  have hnext : 2 ^ (32 - (k + 1)) = 2 ^ (31 - k) := by rw [Nat.add_comm, Nat.sub_add_eq]
  have hPQ : 2 ^ k * 2 ^ (31 - k) = 2 ^ 31 := by rw [← pow_add, Nat.add_sub_cancel' (by omega)]
  have hQ : 0 < 2 ^ (31 - k) := Nat.two_pow_pos _
  have hrest : rest < 2 * 2 ^ (31 - k) := hpow ▸ h.rest_lt
  have hb : rest / 2 ^ (31 - k) < 2 := (Nat.div_lt_iff_lt_mul hQ).mpr hrest
  obtain ⟨htop, hlow⟩ := parts_shift hPQ hrest h.quotient_lt h.parts
  have hy := partialRemainder_step h hk hb htop
  have hshifted : partialRemainder ahr alr < 2 ^ 32 := Nat.mod_lt _ (by decide)
  have hkeeps := keepsSign_iff hM hy hshifted
  have htrial := trialRemainder_eq hM hy
  have hsum : (rest : Int) = (2 ^ (31 - k) : Nat) * (rest / 2 ^ (31 - k) : Nat) + (rest % 2 ^ (31 - k) : Nat) := by
    exact_mod_cast (Nat.div_add_mod rest _).symm
  have hmod := Nat.mod_lt rest hQ
  have hq := h.quotient_lt
  have hvalue := h.value
  have hsucc : 2 ^ (k + 1) = 2 * 2 ^ k := pow_succ' 2 k
  obtain ⟨htaken, hkept⟩ := remainderRange_step rfl hb h.range h.bound
  rw [hpow] at hvalue
  by_cases hkeep : KeepsSign ds.toNat n.toNat divisor.toNat (partialRemainder ahr alr)
  · obtain ⟨hahr, halr⟩ := divisionStep_keeps ds n divisor ahr alr hkeep
    obtain ⟨hrange, hbound⟩ := htaken (hkeeps.mp hkeep)
    rw [htrial, hrange.emod_eq hM.lt] at hahr
    refine ⟨rest % 2 ^ (31 - k), 2 * q + 1, _, hahr, ?_, hnext ▸ hmod, ?_, hrange, hsucc ▸ hbound, ?_⟩
    · rw [halr, hlow, hsucc, Nat.add_assoc]
    · rw [hsucc]; omega
    · rw [hvalue, hnext, hsum]; push_cast; ring
  · obtain ⟨hahr, halr⟩ := divisionStep_shifts ds n divisor ahr alr hkeep
    obtain ⟨hrange, hbound⟩ := hkept (mt hkeeps.mpr hkeep)
    refine ⟨rest % 2 ^ (31 - k), 2 * q, _, ?_, ?_, hnext ▸ hmod, ?_, hrange, hsucc ▸ hbound, ?_⟩
    · rw [hahr, ← hy, Int.sub_add_cancel]
    · rw [halr, hlow, hsucc]
    · rw [hsucc]; omega
    · rw [hvalue, hnext, hsum]; push_cast; ring

end

/-! ### The sequences -/

/-- `s` inside a division sequence. -/
def State.dividing (s : State) (ahr alr pc : Word) : State := { s with ahr := ahr, alr := alr, pc := pc, ext := .none }

theorem execAll_cons {i : Instr} {s t : State} (h : exec i s = .next t) (rest : List Instr) :
    execAll (i :: rest) s = execAll rest t := by
  rw [execAll, h]

section
variable {s : State} {rs : Reg} {M : Nat} {A : Int} (hm : s.cfg.hasMultiplier = true)
include hm

/-- The 32 steps, or as many as are left. -/
theorem execAll_div1 (hM : DivisorMagnitude (s.psr.getLsbD 0) (s.reg rs) M) (tail : List Instr) (m : Nat) :
    ∀ {k rest q : Nat} {x : Int} {ahr alr pc : Word}, k + m = 32 →
      Dividing (s.psr.getLsbD 6) M A k ahr alr rest q x →
      ∃ ahr' alr' rest' q' x', Dividing (s.psr.getLsbD 6) M A 32 ahr' alr' rest' q' x' ∧
        execAll (List.replicate m (.div1 rs) ++ tail) (s.dividing ahr alr pc) =
          execAll tail (s.dividing ahr' alr' (pc + BitVec.ofNat 32 (2 * m))) := by
  induction m with
  | zero =>
    intro k rest q x ahr alr pc hk h
    obtain rfl : k = 32 := hk
    exact ⟨ahr, alr, rest, q, x, h, by rw [BitVec.add_zero]; rfl⟩
  | succ m ih =>
    intro k rest q x ahr alr pc hk h
    obtain ⟨rest', q', x', hstep⟩ := h.step (by omega) hM
    obtain ⟨ahr', alr', rest'', q'', x'', hend, hexec⟩ := ih (pc := pc + 2#32) (by omega) hstep
    refine ⟨ahr', alr', rest'', q'', x'', hend, ?_⟩
    rw [List.replicate_succ, List.cons_append, execAll_cons (exec_div1 (s := s.dividing ahr alr pc) hm rs)]
    refine hexec.trans ?_
    rw [BitVec.add_assoc, Nat.mul_succ, Nat.add_comm (2 * m), BitVec.ofNat_add]

end

/-- A division of a non-zero divisor starts without a zero division. -/
theorem divisionStart_of_ne {divisor : Word} (h : divisor ≠ 0#32) (s : State) (ahr : Word) (ds n : Bool) :
    s.divisionStart divisor ahr ds n =
      State.advance { s with ahr := ahr, psr := withBit (withBit s.psr bitDS ds) bitN n } := by
  rw [State.divisionStart, if_neg fun hc => h hc.1]

/-- What a division sequence leaves unchanged. -/
theorem quietFrame_dividing {s : State} {divisor : Word} (h : divisor ≠ 0#32) (ahr : Word) (ds n : Bool)
    (ahr' alr' pc : Word) :
    QuietFrame [] [0, 6] [.alr, .ahr] s ((s.divisionStart divisor ahr ds n).dividing ahr' alr' pc) := by
  have hflags {k : Nat} (hk : k ∉ [0, 6]) := getLsbD_divisionStart s divisor ahr ds n hk
  rw [divisionStart_of_ne h] at hflags ⊢
  exact quietFrame_core (fun _ _ => rfl) (fun _ => hflags) (fun _ => rfl) (absurd List.mem_cons_self)
    (absurd (List.mem_cons_of_mem _ List.mem_cons_self))

/-- After the last step nothing of the dividend is left. -/
theorem Dividing.done {ds : Bool} {M : Nat} {A : Int} {ahr alr : Word} {rest q : Nat} {x : Int}
    (h : Dividing ds M A 32 ahr alr rest q x) : alr.toNat = q ∧ A = divisionSign ds * q * M + x := by
  obtain rfl : rest = 0 := by simpa using h.rest_lt
  exact ⟨by rw [h.parts, Nat.zero_mul, Nat.zero_add], by rw [h.value]; simp⟩

/-- The invariant of the unsigned sequence before its steps. -/
theorem dividing_start (alr : Word) {M : Nat} (hM : 0 < M) : Dividing false M alr.toNat 0 0#32 alr alr.toNat 0 0 where
  remainder := rfl
  parts := by rw [pow_zero, Nat.mul_one, Nat.add_zero]
  rest_lt := alr.isLt
  quotient_lt := Nat.one_pos
  range := ⟨le_refl 0, Int.natCast_pos.mpr hM⟩
  bound := by decide
  value := by simp [divisionSign]

/-- Settles O39: the invariant before and after the 32 steps gives quotient and remainder. -/
theorem unsignedDivision : Obligations.UnsignedDivision := by
  intro s rs hm hne
  have hpos : 0 < (s.reg rs).toNat := Nat.pos_of_ne_zero fun h => hne (BitVec.eq_of_toNat_eq h)
  have hds := divisionStart_ds s (s.reg rs) 0#32 false false
  have hn := divisionStart_n s (s.reg rs) 0#32 false false
  have hframe := quietFrame_dividing (s := s) hne 0#32 false false
  have hexec := execAll_cons (exec_div0u hm rs) (List.replicate 32 (.div1 rs))
  have hstart : s.divisionStart (s.reg rs) 0#32 false false =
    (s.divisionStart (s.reg rs) 0#32 false false).dividing 0#32 s.alr (s.pc + 2#32) := rfl
  have hreg : (s.divisionStart (s.reg rs) 0#32 false false).reg rs = s.reg rs := rfl
  have hcfg : (s.divisionStart (s.reg rs) 0#32 false false).cfg.hasMultiplier = true := hm
  rw [hstart] at hexec
  generalize s.divisionStart (s.reg rs) 0#32 false false = s1 at hds hn hframe hexec hreg hcfg
  have hM : DivisorMagnitude (s1.psr.getLsbD 0) (s1.reg rs) (s.reg rs).toNat := by
    rw [hn, hreg]
    exact ⟨rfl, hpos, (s.reg rs).isLt⟩
  obtain ⟨ahr, alr, rest, q, x, hend, hsteps⟩ := execAll_div1 hcfg hM [] 32 (pc := s.pc + 2#32) rfl
    (hds ▸ dividing_start s.alr hpos)
  rw [hds] at hend
  obtain ⟨hquot, hvalue⟩ := hend.done
  have hrem : (ahr.toNat : Int) = x := by simpa using hend.remainder
  have hdiv : s.alr.toNat / (s.reg rs).toNat = q ∧ s.alr.toNat % (s.reg rs).toNat = ahr.toNat := by
    refine (Nat.div_mod_unique hpos).mpr ⟨?_, ?_⟩
    · have : (s.alr.toNat : Int) = q * (s.reg rs).toNat + ahr.toNat := by rw [hvalue, hrem]; simp [divisionSign]
      rw [Nat.add_comm, Nat.mul_comm]
      exact_mod_cast this.symm
    · exact_mod_cast hrem ▸ hend.range.2
  rw [List.append_nil] at hsteps
  refine ⟨_, hexec.trans hsteps, hquot.trans hdiv.1.symm, hdiv.2.symm, hframe _ _ _, ?_⟩
  exact BitVec.add_assoc _ _ _

/-! ### The signed sequence -/

/-- The magnitude of a signed word. -/
theorem divisorMagnitude_natAbs {x : Word} (h : x ≠ 0#32) : DivisorMagnitude x.msb x x.toInt.natAbs := by
  have hne : x.toNat ≠ 0 := fun hc => h (BitVec.eq_of_toNat_eq hc)
  have hlt := x.isLt
  have hmsb := msb_eq_decide_le x
  rw [toInt_eq_sub]
  cases hx : x.msb <;> rw [hx] at hmsb
  · have := of_decide_eq_false hmsb.symm
    constructor <;> simp only [Bool.false_eq_true, if_false] <;> omega
  · have := of_decide_eq_true hmsb.symm
    constructor <;> simp only [if_true] <;> omega

/-- The invariant of the signed sequence before its steps: AHR holds the sign of the dividend. -/
theorem dividing_start_signed (alr : Word) {M : Nat} (hM : 0 < M) :
    Dividing alr.msb M alr.toInt 0 (if alr.msb then 0xFFFFFFFF#32 else 0#32) alr alr.toNat 0 (if alr.msb then -1 else 0)
    where
  remainder := by cases alr.msb <;> rfl
  parts := by rw [pow_zero, Nat.mul_one, Nat.add_zero]
  rest_lt := alr.isLt
  quotient_lt := Nat.one_pos
  range := by cases alr.msb <;> simp [RemainderRange] <;> omega
  bound := by cases alr.msb <;> decide
  value := by rw [toInt_eq_sub]; cases alr.msb <;> simp [divisionSign]; ring

/-- What the corrections leave, in exact arithmetic: the quotient without its sign, and a remainder that does not reach
the divisor. -/
structure Corrected (ds : Bool) (M : Nat) (A : Int) (c : Word × Word) (q x : Int) : Prop where
  remainder : c.1 = BitVec.ofInt 32 x
  quotient : c.2 = BitVec.ofInt 32 q
  value : A = divisionSign ds * q * M + x
  range : if ds then -(M : Int) < x ∧ x ≤ 0 else 0 ≤ x ∧ x < M

/-- The first correction (43_multiply_divide_mac.md R261). -/
theorem Dividing.corrected {ds n : Bool} {divisor : Word} {M : Nat} {A : Int} {ahr alr : Word} {rest q : Nat} {x : Int}
    (h : Dividing ds M A 32 ahr alr rest q x) (hM : DivisorMagnitude n divisor M) :
    ∃ q' x', Corrected ds M A (divisionCorrection ds n divisor ahr alr) q' x' := by
  obtain ⟨hquot, hvalue⟩ := h.done
  have halr : alr = BitVec.ofInt 32 q := by rw [BitVec.ofInt_natCast, ← hquot, BitVec.ofNat_toNat, BitVec.setWidth_eq]
  have hahr : ahr = BitVec.ofInt 32 x := by
    have := h.remainder
    apply BitVec.eq_of_toNat_eq
    rw [BitVec.toNat_ofInt]
    cases ds <;> simp at this <;> omega
  have hrange := h.range
  have hrem := h.remainder
  have hMeq := hM.eq
  have hMlt := hM.lt
  by_cases hc : ds.toNat = 1 ∧ RemainderIsDivisor n.toNat divisor ahr
  · rw [divisionCorrection_grows alr hc]
    obtain ⟨hds, his⟩ := hc
    obtain rfl := Bool.toNat_eq_one.mp hds
    obtain rfl : x = -M := by
      simp only [RemainderRange, if_true, RemainderIsDivisor] at hrange his
      cases n <;> simp at hMeq his hrem <;> omega
    exact ⟨q + 1, 0, rfl, by rw [halr, BitVec.ofInt_add]; rfl, by rw [hvalue]; simp [divisionSign]; ring,
      by simpa using hM.pos⟩
  · rw [divisionCorrection_stays alr hc]
    refine ⟨q, x, hahr, halr, hvalue, ?_⟩
    cases ds with
    | false => exact hrange
    | true =>
      simp only [RemainderRange, if_true] at hrange ⊢
      refine ⟨lt_of_le_of_ne hrange.1 fun hx => hc ⟨rfl, ?_⟩, hrange.2.le⟩
      subst hx
      unfold RemainderIsDivisor
      cases n <;> simp at hMeq hrem ⊢ <;> omega

theorem natAbs_toInt (d : Word) : (d.toInt.natAbs : Int) = if d.msb then -d.toInt else d.toInt := by
  rw [BitVec.msb_eq_toInt]
  split <;> simp_all; omega

/-- The quotient with its sign and the remainder are those of a division that rounds toward 0. -/
theorem Corrected.tdiv_tmod {a d : Word} {c : Word × Word} {q x : Int} (hd : d ≠ 0#32)
    (h : Corrected a.msb d.toInt.natAbs a.toInt c q x) :
    a.toInt.tdiv d.toInt = (if a.msb = d.msb then q else -q) ∧ a.toInt.tmod d.toInt = x := by
  have hne : d.toInt ≠ 0 := fun hc => hd (BitVec.eq_of_toInt_eq hc)
  have hrange := h.range
  have hvalue : x + d.toInt * (if a.msb = d.msb then q else -q) = a.toInt := by
    rw [h.value, natAbs_toInt, divisionSign]
    cases a.msb <;> cases d.msb <;> simp <;> ring
  have hsign := BitVec.msb_eq_toInt (x := a)
  cases ha : a.msb <;> rw [ha] at hrange hsign hvalue
  · exact (Int.tdiv_tmod_unique (by simpa using hsign) hne).mpr ⟨hvalue, hrange⟩
  · exact (Int.tdiv_tmod_unique' (of_decide_eq_true hsign.symm).le hne).mpr ⟨hvalue, hrange⟩

/-- The two corrections one after the other. -/
theorem execAll_corrections {s : State} (hm : s.cfg.hasMultiplier = true) (rs : Reg) (field : BitVec 4) (ahr alr pc : Word)
    {c : Word × Word} (hc : divisionCorrection (s.psr.getLsbD 6) (s.psr.getLsbD 0) (s.reg rs) ahr alr = c) :
    execAll [.div2s rs, .div3s field] (s.dividing ahr alr pc) =
      .next (s.dividing c.1 (if s.psr.getLsbD 6 = s.psr.getLsbD 0 then c.2 else -c.2) (pc + 4#32)) := by
  subst hc
  rw [execAll_cons (exec_div2s (s := s.dividing ahr alr pc) hm rs)]
  refine (execAll_cons (exec_div3s (s := s.dividing _ _ (pc + 2#32)) hm field) []).trans ?_
  rw [show pc + 4#32 = pc + 2#32 + 2#32 from (BitVec.add_assoc pc 2#32 2#32).symm]
  rfl

/-- Settles O40: the invariant before and after the 32 steps, then the two corrections. -/
theorem signedDivision : Obligations.SignedDivision := by
  intro s rs field hm hne
  have hpos : 0 < (s.reg rs).toInt.natAbs := (divisorMagnitude_natAbs hne).pos
  have hinit := dividing_start_signed s.alr hpos
  have hexec := execAll_cons (exec_div0s hm rs) (List.replicate 32 (.div1 rs) ++ [.div2s rs, .div3s field])
  generalize (if s.alr.msb then 0xFFFFFFFF#32 else 0#32 : Word) = ahr0 at hinit hexec
  have hds := divisionStart_ds s (s.reg rs) ahr0 s.alr.msb (s.reg rs).msb
  have hn := divisionStart_n s (s.reg rs) ahr0 s.alr.msb (s.reg rs).msb
  have hframe := quietFrame_dividing (s := s) hne ahr0 s.alr.msb (s.reg rs).msb
  have hstart : s.divisionStart (s.reg rs) ahr0 s.alr.msb (s.reg rs).msb =
    (s.divisionStart (s.reg rs) ahr0 s.alr.msb (s.reg rs).msb).dividing ahr0 s.alr (s.pc + 2#32) := rfl
  have hreg : (s.divisionStart (s.reg rs) ahr0 s.alr.msb (s.reg rs).msb).reg rs = s.reg rs := rfl
  have hcfg : (s.divisionStart (s.reg rs) ahr0 s.alr.msb (s.reg rs).msb).cfg.hasMultiplier = true := hm
  rw [hstart] at hexec
  generalize s.divisionStart (s.reg rs) ahr0 s.alr.msb (s.reg rs).msb = s1 at hds hn hframe hexec hreg hcfg
  have hM : DivisorMagnitude (s1.psr.getLsbD 0) (s1.reg rs) (s.reg rs).toInt.natAbs := by
    rw [hn, hreg]
    exact divisorMagnitude_natAbs hne
  obtain ⟨ahr, alr, rest, q, x, hend, hsteps⟩ :=
    execAll_div1 hcfg hM [.div2s rs, .div3s field] 32 (pc := s.pc + 2#32) rfl (hds.symm ▸ hinit)
  obtain ⟨q', x', hcorrected⟩ := hend.corrected hM
  have hlast := execAll_corrections hcfg rs field ahr alr (s.pc + 2#32 + BitVec.ofNat 32 (2 * 32)) rfl
  rw [hds, hn] at hlast
  rw [hds, hn] at hcorrected
  have hresult := hcorrected.tdiv_tmod hne
  refine ⟨_, hexec.trans (hsteps.trans hlast), ?quotient, ?remainder, hframe _ _ _, ?pc⟩
  case quotient =>
    rw [hresult.1]
    change (if _ then _ else _) = _
    rw [hcorrected.quotient]
    split
    · rfl
    · exact (BitVec.ofInt_neg ..).symm
  case remainder => rw [hresult.2]; exact hcorrected.remainder
  case pc => exact (BitVec.add_assoc ..).trans (BitVec.add_assoc ..)

end Sys2Proof.Machine

/-! SUPPORT. `mac` (43_multiply_divide_mac.md section 4) and the bit operations (45_bit_operation.md): what one repeat and one rewritten byte leave behind, then their obligations. -/

namespace Sys2Proof.Machine

/-! ### One repeat of mac -/

/-- The exact sum of the accumulator and the product of the two half words. -/
def State.macSum (s : State) (rs : Reg) : Int :=
  (s.ahr ++ s.alr).toInt +
    (s.read16 1 (s.reg (nextReg rs 1))).toInt * (s.read16 2 (s.reg (nextReg rs 2))).toInt

/-- The PSR after a repeat: MO is set if the exact sum is out of range (43_multiply_divide_mac.md R271). -/
def State.macPsr (s : State) (rs : Reg) : Word :=
  if s.macSum rs < -2 ^ 63 ∨ 2 ^ 63 ≤ s.macSum rs then withBit s.psr bitMO true else s.psr

/-- The state after the two reads of a repeat, with the new accumulator and MO. -/
def State.macAccumulated (s : State) (rs : Reg) : State :=
  { ((s.noteRead .half (s.reg (nextReg rs 1))).noteRead .half (s.reg (nextReg rs 2))).setAccumulator
      (BitVec.ofInt 64 (s.macSum rs)) with psr := s.macPsr rs }

theorem State.macRepeat_eq (s : State) (rs : Reg) : s.macRepeat rs =
    (((s.macAccumulated rs).setReg (nextReg rs 1) (s.reg (nextReg rs 1) + 2#32)).setReg (nextReg rs 2)
      (s.reg (nextReg rs 2) + 2#32)).setReg rs (s.reg rs - 1#32) := by
  have hpsr (v : BitVec 64) : (((s.noteRead .half (s.reg (nextReg rs 1))).noteRead .half
      (s.reg (nextReg rs 2))).setAccumulator v).psr = s.psr := by simp
  unfold State.macRepeat State.macAccumulated State.macPsr State.macSum
  dsimp only
  split
  · rw [hpsr]
  · rw [← hpsr]

theorem macPsr_mo (s : State) (rs : Reg) : (s.macPsr rs).getLsbD 7 = true ↔
    s.psr.getLsbD 7 = true ∨ s.macSum rs < -2 ^ 63 ∨ 2 ^ 63 ≤ s.macSum rs := by
  unfold State.macPsr
  split
  · next h => exact iff_of_true (getLsbD_withBit_self _ _ (by decide)) (.inr h)
  · next h => exact (or_iff_left h).symm

theorem getLsbD_macPsr (s : State) (rs : Reg) {k : Nat} (h : k ∉ [7]) : (s.macPsr rs).getLsbD k = s.psr.getLsbD k := by
  unfold State.macPsr
  split
  · exact getLsbD_withBit_of_ne _ _ (by simpa [bitMO] using h)
  · rfl

/-- A register `1` or `2` places further is another one. -/
theorem nextReg_ne (r : Reg) : nextReg r 1 ≠ r ∧ nextReg r 2 ≠ r ∧ nextReg r 1 ≠ nextReg r 2 := by
  revert r; decide

theorem readFrame_macAccumulated (s : State) (rs : Reg) :
    ReadFrame [] [7] [.alr, .ahr] s (s.macAccumulated rs) := by
  have hmapped : MappedFrame s (s.macAccumulated rs) := by
    constructor <;> simp [State.macAccumulated]
  refine ⟨?_, hmapped, State.readByte_congr hmapped ?_ ?_ ?_, ?_⟩
  · constructor
    case flags => exact fun k hk => getLsbD_macPsr s rs hk
    all_goals simp [State.macAccumulated, State.reg]
  all_goals simp [State.macAccumulated]

/-- Writing a register beside what an instruction read. -/
theorem ReadFrame.setReg {regs : List Reg} {bits : List Nat} {specials : List SpecialReg} {s t : State}
    (h : ReadFrame regs bits specials s t) (r : Reg) (v : Word) : ReadFrame (r :: regs) bits specials s (t.setReg r v) := by
  obtain ⟨hcore, hmapped, hmemory, hstores⟩ := h
  refine ⟨{ hcore with regs := fun q hq => ?_ }, { hmapped with }, hmemory, hstores⟩
  obtain ⟨hr, hregs⟩ := not_or.mp (mt List.mem_cons.mpr hq)
  exact (State.reg_setReg_ne t v hr).trans (hcore.regs q hregs)

/-- Settles O41: the three ways `execMac` ends, the repeat by `State.macRepeat_eq`. -/
theorem macRepeats : Obligations.MacRepeats := by
  intro s rs p1 p2 hm h1 h2
  obtain rfl := nextReg_eq h1
  obtain rfl := nextReg_eq h2
  obtain ⟨hne1, hne2, hne12⟩ := nextReg_ne rs
  refine ⟨fun hcount => if_pos ?ends, fun hcount heven1 heven2 => ?repeats, fun hcount hodd hready => ?traps⟩
  case ends => rw [hcount]; simp
  case repeats =>
    refine ⟨_, s.macSum rs, exec_mac_repeat hm hcount heven1 heven2, ?_⟩
    rw [State.macRepeat_eq]
    refine ⟨?_, accumulator_ofInt _, macPsr_mo s rs, ?_, ?_, State.reg_setReg_self .., ?_, ?_, ?_, ?_⟩
    · rw [State.macSum, BitVec.toInt_eq_toNat_bmod, BitVec.toInt_eq_toNat_bmod, BitVec.toInt_eq_toNat_bmod,
        toNat_append_field, State.read16_toNat, State.read16_toNat]
    · rw [State.reg_setReg_ne _ _ hne1, State.reg_setReg_ne _ _ hne12, State.reg_setReg_self]
    · rw [State.reg_setReg_ne _ _ hne2, State.reg_setReg_self]
    · simp [State.macAccumulated]
    · simp [State.macAccumulated]
    · simp [State.macAccumulated]
    · have hframe := (((readFrame_macAccumulated s rs).setReg (nextReg rs 1) (s.reg (nextReg rs 1) + 2#32)).setReg
        (nextReg rs 2) (s.reg (nextReg rs 2) + 2#32)).setReg rs (s.reg rs - 1#32)
      refine ⟨{ hframe.core with regs := fun q hq => hframe.core.regs q ?_ }, hframe.mapped, hframe.memory,
        hframe.storesNow⟩
      simpa [and_comm] using hq
  case traps =>
    refine addressError_result hready ((if_neg ?_).trans (if_pos ?_))
    · simp [hm, hcount]
    · rw [Bool.or_eq_true, misaligned_iff, misaligned_iff]
      exact hodd.imp (fun h => by simp [Size.bytes, h]) fun h => by simp [Size.bytes, h]

/-! ### Bit operations -/

theorem getLsbD_bitMask : ∀ (imm3 : BitVec 3), ∀ k < 8, (bitMask imm3).getLsbD k = decide (k = imm3.toNat) := by decide

/-- Plain memory reads alike in every access. -/
theorem State.readByte_plain {s : State} {a : Nat} (h : s.plainRam a) (access : Nat) :
    s.readByte access a = Memory.read s.mem a := by
  obtain ⟨hkind, hmapped, -⟩ := h
  rw [State.readByte, hmapped]
  simp only [hkind]

/-- What a byte write does is the same after something that changes no mapped register. -/
theorem MappedByteWritten.after {s u t : State} {a : Nat} {b : Byte} (hm : MappedFrame s u)
    (h : MappedByteWritten u a b t) : MappedByteWritten s a b t := by
  have hmode := hm.userMode
  obtain ⟨hwe, httbr, hdcr, hdsr, hdcr2, hdsr2, hibar0, hibar1, hibar2, hdbar⟩ := h
  rw [hm.ttbrWe] at hwe httbr
  rw [hmode] at hdcr hdsr hdcr2 hdsr2 hibar0 hibar1 hibar2 hdbar
  exact ⟨hwe, hm.ttbr ▸ httbr, hm.dcr ▸ hdcr, hm.dsr ▸ hdsr, hm.dcr2 ▸ hdcr2, hm.dsr2 ▸ hdsr2, hm.ibar0 ▸ hibar0,
    hm.ibar1 ▸ hibar1, hm.ibar2 ▸ hibar2, hm.dbar ▸ hdbar⟩

/-- The state in which a bit operation writes its byte back. -/
def State.rewriting (s : State) (x : Word) : State := (s.noteRead .byte x).noteWrite .byte x

theorem rewriting_mapped (s : State) (x : Word) : MappedFrame s (s.rewriting x) :=
  (s.noteRead_mapped .byte x).trans (State.noteWrite_mapped _ .byte x)

theorem rewriting_memory (s : State) (x : Word) : SameMemory s (s.rewriting x) := fun k a =>
  (State.noteWrite_memory _ .byte x k a).trans (s.noteRead_memory .byte x k a)

theorem rewriting_cfg (s : State) (x : Word) : (s.rewriting x).cfg = s.cfg := by
  rw [State.rewriting, State.noteWrite_cfg, State.noteRead_cfg]

/-- The write-back is one byte written. -/
theorem State.rewriteByte_eq (s : State) (x : Word) (f : Byte → Byte) : s.rewriteByte x f =
    ((s.rewriting x).writeByte (s.byteAddress x 0) (f (s.readByte 1 (s.byteAddress x 0)))).advance := by
  have hbyte (b : Byte) : byteOf (b.setWidth 32) 0 = b := by
    apply BitVec.eq_of_toNat_eq
    rw [byteOf_toNat, BitVec.toNat_setWidth]
    omega
  rw [State.rewriteByte, State.read8, State.store, Size.bytes, State.writeBytes, hbyte,
    ← State.byteAddress_congr (rewriting_cfg s x)]
  rfl

theorem coreFrame_rewriteByte (s : State) (x : Word) (f : Byte → Byte) :
    CoreFrame [] [] [] s (s.rewriteByte x f) := by
  unfold State.rewriteByte
  constructor <;> simp [State.reg]

theorem advanced_rewriteByte (s : State) (x : Word) (f : Byte → Byte) : Advanced s (s.rewriteByte x f) := by
  unfold State.rewriteByte
  constructor <;> simp

/-- A bit operation that writes its byte back, `g` being what it does to its bit and `f` what it does to the byte. -/
theorem rewriteByte_result {i : Instr} {s : State} {rb : Reg} {imm3 : BitVec 3} {f : Byte → Byte} {g : Bool → Bool}
    (hinv : s.Inv) (hexec : exec i s = .next (s.rewriteByte (s.indirect rb) f))
    (hbits : ∀ (b : Byte), ∀ k < 8, (f b).getLsbD k = if k = imm3.toNat then g (b.getLsbD k) else b.getLsbD k) :
    let a := s.byteAddress (s.baseAddress rb) 0
    ∃ t, exec i s = .next t ∧
      (s.plainRam a → ∀ access, ∀ k < 8, (t.readByte access a).getLsbD k =
        if k = imm3.toNat then g ((s.readByte access a).getLsbD k) else (s.readByte access a).getLsbD k) ∧
      (∃ b : Byte, MappedByteWritten s a b t ∧ ∀ k < 8, b.getLsbD k =
        if k = imm3.toNat then g ((s.readByte 1 a).getLsbD k) else (s.readByte 1 a).getLsbD k) ∧
      SameMemoryExcept [a] s t ∧ CoreFrame [] [] [] s t ∧ (s.plainRam a → MappedFrame s t) ∧ Advanced s t := by
  intro a
  have hmapped := rewriting_mapped s (s.baseAddress rb)
  have hmemory := rewriting_memory s (s.baseAddress rb)
  have hplain := State.plainRam_congr (rewriting_cfg s (s.baseAddress rb)) hmapped.userMode a
  have hbits' := hmapped.mappedBits hinv.mappedBits
  have hcore := coreFrame_rewriteByte s (s.baseAddress rb) f
  have hadvanced := advanced_rewriteByte s (s.baseAddress rb) f
  rw [State.indirect_eq] at hexec
  rw [State.rewriteByte_eq] at hexec hcore hadvanced
  refine ⟨_, hexec, fun hram access k hk => ?back, ⟨f (s.readByte 1 a), ?written, hbits _⟩, fun access a' ha => ?others,
    hcore, fun hram => ?frame, hadvanced⟩
  case back =>
    have hread : State.readByte (State.advance _) access a = f (s.readByte 1 a) :=
      State.readByte_writeByte_self (hplain.mpr hram) access _
    rw [hread, hbits _ k hk, State.readByte_plain hram, State.readByte_plain hram]
  case written =>
    obtain ⟨hwe, httbr, hdcr, hdsr, hdcr2, hdsr2, hibar0, hibar1, hibar2, hdbar⟩ :=
      (State.writeByte_written hbits' a (f (s.readByte 1 a))).after hmapped
    exact ⟨hwe, httbr, hdcr, hdsr, hdcr2, hdsr2, hibar0, hibar1, hibar2, hdbar⟩
  case others =>
    exact (hbits'.readByte_writeByte_ne access _ (List.ne_of_not_mem_cons ha)).trans (hmemory access a')
  case frame =>
    rw [State.writeByte_plain (hplain.mpr hram)]
    exact hmapped.trans ⟨rfl, rfl, rfl, rfl, rfl, rfl, rfl, rfl, rfl, rfl⟩

/-- `btst` writes Z alone (45_bit_operation.md R305). -/
theorem readFrame_btst (s : State) (x : Word) (z : Bool) :
    ReadFrame [] [1] [] s (State.advance { s.noteRead .byte x with psr := withBit s.psr bitZ z }) := by
  have hmapped : MappedFrame s (State.advance { s.noteRead .byte x with psr := withBit s.psr bitZ z }) := by
    constructor <;> simp
  refine ⟨?_, hmapped, State.readByte_congr hmapped ?_ ?_ ?_, ?_⟩
  · constructor
    case flags => exact fun k hk => getLsbD_withBit_of_ne _ _ (by simpa [bitZ] using hk)
    all_goals simp [State.reg]
  all_goals simp

/-- Settles O42: `btst` by its equation, the three others by `rewriteByte_result` and the bits of their masks. -/
theorem bitOperationResults : Obligations.BitOperationResults := by
  intro s rb imm3 hinv a
  refine ⟨?btst, ?others⟩
  case btst =>
    have hexec : exec (.btst rb imm3) s = .next (State.advance { s.noteRead .byte (s.baseAddress rb) with
        psr := withBit s.psr bitZ (!(s.readByte 1 a).getLsbD imm3.toNat) }) := by
      rw [← State.noteRead_psr s .byte (s.baseAddress rb)]
      change execBtst rb imm3 s = _
      rw [execBtst, State.indirect_eq]
      rfl
    refine ⟨_, hexec, ?_, readFrame_btst .., by simp, rfl, by simp⟩
    rw [State.advance_psr, ← Bool.not_eq_true']
    exact iff_of_eq (congrArg (· = true) (getLsbD_withBit_self _ _ (by decide)))
  case others =>
    simp only [List.forall_mem_cons]
    refine ⟨rewriteByte_result (g := fun _ => false) hinv rfl fun b k hk => ?_,
      rewriteByte_result (g := fun _ => true) hinv rfl fun b k hk => ?_,
      rewriteByte_result (g := fun b => !b) hinv rfl fun b k hk => ?_, List.forall_mem_nil _⟩
    · rw [BitVec.getLsbD_and, BitVec.getLsbD_not, getLsbD_bitMask imm3 k hk, decide_eq_true hk]
      split <;> simp [*]
    · rw [BitVec.getLsbD_or, getLsbD_bitMask imm3 k hk]
      split <;> simp [*]
    · rw [BitVec.getLsbD_xor, getLsbD_bitMask imm3 k hk]
      split <;> simp [*]

end Sys2Proof.Machine

/-! SUPPORT. `pushn` and `popn` (46_push_pop.md): the group of registers on the stack by induction on its size, then the obligations. -/

namespace Sys2Proof.Machine

/-! ### pushn -/

/-- The number of a register of the group. -/
theorem ofNat_val (r : Reg) : Fin.ofNat 16 r.val = r := Fin.ofNat_val_eq_self r

theorem State.pushRegs_sp (k : Nat) : ∀ s : State, (s.pushRegs k).sp = s.sp - BitVec.ofNat 32 (4 * k) := by
  induction k with
  | zero => exact fun s => (BitVec.sub_zero _).symm
  | succ k ih =>
    intro s
    rw [State.pushRegs, ih, State.push_sp, Nat.mul_succ, Nat.add_comm, BitVec.ofNat_add, BitVec.sub_sub]

@[simp] theorem State.pushRegs_reg (s : State) (k : Nat) (r : Reg) : (s.pushRegs k).reg r = s.reg r := by
  induction k generalizing s with
  | zero => rfl
  | succ k ih => rw [State.pushRegs, ih, State.push_reg]

/-- `pushn` writes SP and, of the core, nothing else. -/
theorem coreFrame_push (s : State) (agent : Agent) (v : Word) : CoreFrame [] [] [.sp] s (s.push agent v) := by
  constructor <;> simp [State.reg]

/-- Frames of the core compose. -/
theorem CoreFrame.trans {regs : List Reg} {bits : List Nat} {specials : List SpecialReg} {s t u : State}
    (h : CoreFrame regs bits specials s t) (h' : CoreFrame regs bits specials t u) : CoreFrame regs bits specials s u where
  regs r hr := (h'.regs r hr).trans (h.regs r hr)
  flags k hk := (h'.flags k hk).trans (h.flags k hk)
  sp hs := (h'.sp hs).trans (h.sp hs)
  alr hs := (h'.alr hs).trans (h.alr hs)
  ahr hs := (h'.ahr hs).trans (h.ahr hs)
  nmiArmed := h'.nmiArmed.trans h.nmiArmed
  nmiPending := h'.nmiPending.trans h.nmiPending
  run := h'.run.trans h.run
  busReleased := h'.busReleased.trans h.busReleased
  zdiv := h'.zdiv.trans h.zdiv
  retdShadow := h'.retdShadow.trans h.retdShadow
  cfg := h'.cfg.trans h.cfg
  inputs := h'.inputs.trans h.inputs
  freeCount := h'.freeCount.trans h.freeCount
  storesPrev := h'.storesPrev.trans h.storesPrev
  storesPrev2 := h'.storesPrev2.trans h.storesPrev2

theorem CoreFrame.refl {regs : List Reg} {bits : List Nat} {specials : List SpecialReg} (s : State) :
    CoreFrame regs bits specials s s :=
  ⟨fun _ _ => rfl, fun _ _ => rfl, fun _ => rfl, fun _ => rfl, fun _ => rfl, rfl, rfl, rfl, rfl, rfl, rfl, rfl, rfl, rfl,
    rfl, rfl⟩

theorem coreFrame_pushRegs (k : Nat) : ∀ s : State, CoreFrame [] [] [.sp] s (s.pushRegs k) := by
  induction k with
  | zero => exact fun s => .refl s
  | succ k ih => exact fun s => (coreFrame_push s .instruction _).trans (ih _)

theorem State.pushRegs_rest (k : Nat) : ∀ s : State, (s.pushRegs k).pc = s.pc ∧ (s.pushRegs k).delay = s.delay := by
  induction k with
  | zero => exact fun s => ⟨rfl, rfl⟩
  | succ k ih => exact fun s => ⟨(ih _).1.trans (State.push_pc ..), (ih _).2.trans (State.push_delay ..)⟩

/-- What pushing the registers below `k` does to memory. -/
structure GroupPushed (s : State) (k : Nat) (base : Word) (t : State) : Prop where
  others : MappedBits s → SameMemoryExcept (s.addresses base (4 * k)) s t
  plainOthers : s.plainBlock base (4 * k) → SameMemoryExcept (s.addresses base (4 * k)) s t
  words : s.plainBlock base (4 * k) → ∀ (r : Reg) (access : Nat), r.val < k →
    t.numberAt access (base + BitVec.ofNat 32 (4 * r.val)) 4 = (s.reg r).toNat
  mapped : s.plainBlock base (4 * k) → MappedFrame s t

/-- The top word of a group and the rest of it. -/
theorem group_split (s : State) (base : Word) (k : Nat) :
    s.addresses base (4 * (k + 1)) = s.addresses base (4 * k) ++ s.addresses (base + BitVec.ofNat 32 (4 * k)) 4 :=
  s.addresses_add base (4 * k) 4

/-- A group of at most 16 registers: the topmost word is pushed first, the others lie below it. -/
theorem State.pushRegs_pushed (k : Nat) : ∀ {s : State} {base : Word}, k ≤ 16 →
    base + BitVec.ofNat 32 (4 * k) = s.sp → GroupPushed s k base (s.pushRegs k) := by
  induction k with
  | zero =>
    intro s base _ _
    exact ⟨fun _ _ _ _ => rfl, fun _ _ _ _ => rfl, fun _ _ _ hr => absurd hr (Nat.not_lt_zero _), fun _ => .refl s⟩
  | succ k ih =>
    intro s base hk hbase
    have htop : base + BitVec.ofNat 32 (4 * k) = s.sp - 4#32 := by
      rw [← hbase, Nat.mul_succ, BitVec.ofNat_add, ← BitVec.add_assoc]
      exact (BitVec.add_sub_cancel _ _).symm
    have hpush := s.push_spec .instruction (s.reg (Fin.ofNat 16 k))
    rw [← htop] at hpush
    have hcfg : (s.push .instruction (s.reg (Fin.ofNat 16 k))).cfg = s.cfg := State.push_cfg ..
    have hreg (r : Reg) : (s.push .instruction (s.reg (Fin.ofNat 16 k))).reg r = s.reg r := State.push_reg ..
    have hrest := ih (s := s.push .instruction (s.reg (Fin.ofNat 16 k))) (base := base) (by omega)
      (htop.trans (State.push_sp ..).symm)
    rw [← State.pushRegs] at hrest
    generalize s.push .instruction (s.reg (Fin.ofNat 16 k)) = u at hpush hcfg hreg hrest
    have haddr := State.addresses_congr hcfg base (4 * k)
    have hplain (h : s.plainBlock base (4 * (k + 1))) := State.plainBlock_add (m := 4 * k) h
    have hlow (h : s.plainBlock base (4 * (k + 1))) : u.plainBlock base (4 * k) :=
      (State.plainBlock_congr hcfg hpush.mode _ _).mpr (hplain h).1
    have outside {a : Nat} (ha : a ∉ s.addresses base (4 * (k + 1))) :
        a ∉ u.addresses base (4 * k) ∧ a ∉ s.addresses (base + BitVec.ofNat 32 (4 * k)) 4 := by
      rw [group_split, List.mem_append, not_or] at ha
      exact ⟨haddr ▸ ha.1, ha.2⟩
    refine ⟨fun hbits access a ha => ?_, fun h access a ha => ?_, fun h r access hr => ?_, fun h => ?_⟩
    · exact (hrest.others (hpush.bits hbits) access a (outside ha).1).trans (hpush.others hbits access a (outside ha).2)
    · exact (hrest.plainOthers (hlow h) access a (outside ha).1).trans
        (hpush.plainOthers (hplain h).2.1 access a (outside ha).2)
    · rcases Nat.lt_succ_iff_lt_or_eq.mp hr with hr | rfl
      · rw [hrest.words (hlow h) r access hr, hreg]
      · have hsame : (s.pushRegs (r.val + 1)).numberAt access (base + BitVec.ofNat 32 (4 * r.val)) 4 =
            u.numberAt access (base + BitVec.ofNat 32 (4 * r.val)) 4 := by
          refine State.numberAt_congr (((coreFrame_pushRegs _ s).cfg).trans hcfg.symm) fun a ha => ?_
          rw [State.addresses_congr hcfg] at ha
          exact hrest.plainOthers (hlow h) access a fun hmem => (hplain h).2.2 a (haddr ▸ hmem) ha
        rw [hsame, hpush.back (hplain h).2.1, word_mod, ofNat_val]
    · exact (hpush.mapped (hplain h).2.1).trans (hrest.mapped (hlow h))

/-- Settles O43, by `State.pushRegs_pushed`. -/
theorem pushResults : Obligations.PushResults := by
  intro s rs hinv size base
  have hbase : base + BitVec.ofNat 32 (4 * (rs.val + 1)) = s.sp := BitVec.sub_add_cancel _ _
  have hpushed := State.pushRegs_pushed (rs.val + 1) rs.isLt hbase
  have hcore := coreFrame_pushRegs (rs.val + 1) s
  obtain ⟨hpc, hdelay⟩ := State.pushRegs_rest (rs.val + 1) s
  refine ⟨_, rfl, State.pushRegs_sp (rs.val + 1) s, fun hplain => ⟨fun r access hr => ?_, ?_⟩, hpushed.others hinv.mappedBits,
    { hcore with }, ?_, rfl, hdelay⟩
  · exact hpushed.words hplain r access (Nat.lt_succ_of_le hr)
  · exact { hpushed.mapped hplain with }
  · rw [State.advance_pc, hpc]

/-! ### popn -/

theorem coreFrame_pop (s : State) : CoreFrame [] [] [.sp] s s.pop := by
  constructor <;> simp [State.reg]

/-- What popping the registers below `k` does. -/
structure GroupPopped (s : State) (k : Nat) (t : State) : Prop where
  words : ∀ r : Reg, r.val < k → (t.reg r).toNat = s.numberAt (1 + r.val) (s.sp + BitVec.ofNat 32 (4 * r.val)) 4
  frame : ReadFrame ((List.range k).map (Fin.ofNat 16)) [] [.sp] s t
  pc : t.pc = s.pc
  delay : t.delay = s.delay

/-- Reads one after the other. -/
theorem ReadFrame.pop {regs : List Reg} {bits : List Nat} {s t : State} (h : ReadFrame regs bits [.sp] s t) :
    ReadFrame regs bits [.sp] s t.pop where
  core := h.core.trans { coreFrame_pop t with
    regs := fun r _ => (coreFrame_pop t).regs r List.not_mem_nil
    flags := fun k _ => (coreFrame_pop t).flags k List.not_mem_nil }
  mapped := h.mapped.trans t.pop_mapped
  memory := fun access a => (t.pop_memory access a).trans (h.memory access a)
  storesNow := (State.pop_storesNow t).trans h.storesNow

theorem ReadFrame.refl {regs : List Reg} {bits : List Nat} {specials : List SpecialReg} (s : State) :
    ReadFrame regs bits specials s s := ⟨.refl s, .refl s, fun _ _ => rfl, rfl⟩

theorem State.popRegs_popped (s : State) (k : Nat) (hk : k ≤ 16) : GroupPopped s k (s.popRegs k) := by
  induction k with
  | zero => exact ⟨fun _ hr => absurd hr (Nat.not_lt_zero _), .refl s, rfl, rfl⟩
  | succ k ih =>
    obtain ⟨hwords, hframe, hpc, hdelay⟩ := ih (by omega)
    have hval : (Fin.ofNat 16 k).val = k := Nat.mod_eq_of_lt (by omega)
    have hsp := State.popRegs_sp k s
    rw [State.popRegs]
    generalize s.popRegs k = t at hwords hframe hpc hdelay hsp
    refine ⟨fun r hr => ?_, ?_, (State.pop_pc t).trans hpc, (State.pop_delay t).trans hdelay⟩
    · by_cases hrk : r = Fin.ofNat 16 k
      · subst hrk
        rw [State.reg_setReg_self, State.top_toNat, hsp, hval]
        exact hframe.memory.numberAt hframe.core.cfg _ _ _
      · have hne : r.val ≠ k := fun h => hrk (Fin.ext (h.trans hval.symm))
        rw [State.reg_setReg_ne _ _ hrk, State.pop_reg, hwords r (by omega)]
    · have hset := hframe.pop.setReg (Fin.ofNat 16 k) (t.top (1 + k))
      refine ⟨{ hset.core with regs := fun q hq => hset.core.regs q fun hmem => hq ?_ }, hset.mapped, hset.memory,
        hset.storesNow⟩
      rw [List.range_succ, List.map_append, List.mem_append]
      exact (List.mem_cons.mp hmem).elim (fun h => .inr (h ▸ List.mem_cons_self)) .inl

/-- Settles O44, by `State.popRegs_popped`. -/
theorem popResults : Obligations.PopResults := by
  intro s rd
  obtain ⟨hwords, ⟨hcore, hmapped, hmemory, hstores⟩, hpc, hdelay⟩ := s.popRegs_popped (rd.val + 1) rd.isLt
  refine ⟨_, rfl, State.popRegs_sp (rd.val + 1) s, fun r hr => hwords r (Nat.lt_succ_of_le hr),
    ⟨{ hcore with }, { hmapped with }, hmemory, hstores⟩, ?_, rfl, hdelay⟩
  rw [State.advance_pc, hpc]

/-- Settles O45: the words `popn` reads are those that `pushn` wrote. -/
theorem popUndoesPush : Obligations.PopUndoesPush := by
  intro s t u r hplain hpush hpop
  obtain rfl : (s.pushRegs (r.val + 1)).advance = t := Host.Outcome.next.inj hpush
  obtain rfl : (State.popRegs _ (r.val + 1)).advance = u := Host.Outcome.next.inj hpop
  have hbase : s.sp - BitVec.ofNat 32 (4 * (r.val + 1)) + BitVec.ofNat 32 (4 * (r.val + 1)) = s.sp :=
    BitVec.sub_add_cancel _ _
  have hwords := (State.pushRegs_pushed (r.val + 1) r.isLt hbase).words hplain
  have hsp := State.pushRegs_sp (r.val + 1) s
  have hpopped := State.popRegs_popped (s.pushRegs (r.val + 1)).advance (r.val + 1) r.isLt
  refine ⟨fun q => ?_, (State.popRegs_sp ..).trans ?_, ?_⟩
  · by_cases hq : q.val < r.val + 1
    · apply BitVec.eq_of_toNat_eq
      refine (hpopped.words q hq).trans ?_
      rw [State.advance_sp, hsp]
      exact hwords q _ hq
    · refine (hpopped.frame.core.regs q fun hmem => hq ?_).trans (State.pushRegs_reg s _ q)
      obtain ⟨j, hj, rfl⟩ := List.mem_map.mp hmem
      exact (Nat.mod_le _ _).trans_lt (List.mem_range.mp hj)
  · rw [State.advance_sp, hsp, hbase]
  · rw [State.advance_psr, State.popRegs_psr, State.advance_psr, State.pushRegs_psr]

end Sys2Proof.Machine

/-! SUPPORT. The branch instructions (47_branch.md): conditions, targets, calls, returns, `int`, `reti`, `brk` and `retd`, then their obligations. -/

namespace Sys2Proof.Machine

/-! ### Conditions -/

section
variable (s : State)

theorem condGt_iff : s.condGt = true ↔ s.psr.getLsbD 1 = false ∧ s.psr.getLsbD 0 = s.psr.getLsbD 2 := by
  change (!s.psr.getLsbD 1 && !(s.psr.getLsbD 0 ^^ s.psr.getLsbD 2)) = true ↔ _
  cases s.psr.getLsbD 1 <;> cases s.psr.getLsbD 0 <;> cases s.psr.getLsbD 2 <;> decide

theorem condGe_iff : s.condGe = true ↔ s.psr.getLsbD 0 = s.psr.getLsbD 2 := by
  change (!(s.psr.getLsbD 0 ^^ s.psr.getLsbD 2)) = true ↔ _
  cases s.psr.getLsbD 0 <;> cases s.psr.getLsbD 2 <;> decide

theorem condLt_iff : s.condLt = true ↔ s.psr.getLsbD 0 ≠ s.psr.getLsbD 2 := by
  change (s.psr.getLsbD 0 ^^ s.psr.getLsbD 2) = true ↔ _
  cases s.psr.getLsbD 0 <;> cases s.psr.getLsbD 2 <;> decide

theorem condLe_iff : s.condLe = true ↔ s.psr.getLsbD 1 = true ∨ s.psr.getLsbD 0 ≠ s.psr.getLsbD 2 := by
  rw [← condLt_iff]
  exact Bool.or_eq_true_iff

theorem condUgt_iff : s.condUgt = true ↔ s.psr.getLsbD 1 = false ∧ s.psr.getLsbD 3 = false := by
  change (!s.psr.getLsbD 1 && !s.psr.getLsbD 3) = true ↔ _
  rw [Bool.and_eq_true_iff, Bool.not_eq_true', Bool.not_eq_true']

theorem condUge_iff : s.condUge = true ↔ s.psr.getLsbD 3 = false := Bool.not_eq_eq_eq_not

theorem condUle_iff : s.condUle = true ↔ s.psr.getLsbD 1 = true ∨ s.psr.getLsbD 3 = true := Bool.or_eq_true_iff

theorem condNe_iff : s.condNe = true ↔ s.psr.getLsbD 1 = false := Bool.not_eq_eq_eq_not

/-- The target of a PC-relative branch. -/
theorem State.target_eq (d : BitVec 8) : s.target d = s.pc + BitVec.ofInt 32 (s.ext.displacement d) := by
  rw [State.target, branchDisplacement_eq]

end

/-! ### Branches -/

/-- What a branch to `target` does if `c` holds, plain as `i` and delayed as `j`. -/
def Branches (s : State) (i j : Instr) (c : Prop) (target : Word) : Prop :=
  (c → exec i s = .next { s with pc := target, ext := .none } ∧
    exec j s = .next { s with pc := s.pc + 2#32, ext := .none, delay := some target }) ∧
  (¬c → exec i s = .next { s with pc := s.pc + 2#32, ext := .none } ∧
    exec j s = .next { s with pc := s.pc + 2#32, ext := .none, delay := some (s.pc + 4#32) })

theorem branches_of_branchIf {s : State} {i j : Instr} {cond : Bool} {c : Prop} {d : BitVec 8} (hc : cond = true ↔ c)
    (hi : exec i s = .next (s.branchIf cond false d)) (hj : exec j s = .next (s.branchIf cond true d)) :
    Branches s i j c (s.pc + BitVec.ofInt 32 (s.ext.displacement d)) := by
  rw [← State.target_eq]
  refine ⟨fun h => ?_, fun h => ?_⟩
  · obtain rfl := hc.mpr h
    exact ⟨hi, hj⟩
  · obtain rfl : cond = false := Bool.eq_false_iff.mpr fun hcond => h (hc.mp hcond)
    exact ⟨hi, hj⟩

theorem branches_of_branchTo {s : State} {i j : Instr} {x target : Word} (hx : x = target)
    (hi : exec i s = .next (s.branchTo false x)) (hj : exec j s = .next (s.branchTo true x)) :
    Branches s i j True target := by
  subst hx
  exact ⟨fun _ => ⟨hi, hj⟩, fun h => absurd trivial h⟩

/-- Settles O46: each form by its condition and `branches_of_branchIf` or `branches_of_branchTo`. -/
theorem branchResults : Obligations.BranchResults := by
  intro s d rb n z v c relative absolute
  repeat rw [List.forall_mem_cons]
  refine ⟨?_, ?_, ?_, ?_, ?_, ?_, ?_, ?_, ?_, ?_, ?_, ?_, List.forall_mem_nil _⟩
  · exact branches_of_branchIf (condGt_iff s) rfl rfl
  · exact branches_of_branchIf (condGe_iff s) rfl rfl
  · exact branches_of_branchIf (condLt_iff s) rfl rfl
  · exact branches_of_branchIf (condLe_iff s) rfl rfl
  · exact branches_of_branchIf (condUgt_iff s) rfl rfl
  · exact branches_of_branchIf (condUge_iff s) rfl rfl
  · exact branches_of_branchIf (cond := s.condUlt) Iff.rfl rfl rfl
  · exact branches_of_branchIf (condUle_iff s) rfl rfl
  · exact branches_of_branchIf (cond := s.condEq) Iff.rfl rfl rfl
  · exact branches_of_branchIf (condNe_iff s) rfl rfl
  · exact branches_of_branchTo (s.target_eq d) rfl rfl
  · exact branches_of_branchTo (maskPc_eq_ofNat _) rfl rfl

/-! ### Branches after a comparison -/

section
variable {a b d psr : Word} (h : SubtractionFlags a b 0 d psr)
include h

theorem compare_z : psr.getLsbD 1 = true ↔ a = b := by
  have ha := a.isLt
  have hb := b.isLt
  rw [h.z, h.difference, ← BitVec.toNat_inj, ← BitVec.toNat_inj, BitVec.toNat_ofInt, BitVec.toNat_ofNat]
  omega

theorem compare_nv : psr.getLsbD 0 ≠ psr.getLsbD 2 ↔ a.toInt < b.toInt := by
  have ha := a.isLt
  have hb := b.isLt
  have hn : psr.getLsbD 0 = true ↔ 2 ^ 31 ≤ d.toNat := by
    rw [h.n, ← decide_eq_true_iff (p := 2 ^ 31 ≤ d.toNat), ← msb_eq_decide_le, BitVec.msb_eq_getLsbD_last]
  have hd := congrArg BitVec.toNat h.difference
  rw [BitVec.toNat_ofInt] at hd
  have hv := h.v
  rw [toInt_eq_sub a, toInt_eq_sub b] at hv ⊢
  simp only [msb_eq_decide_le, decide_eq_true_eq] at hv ⊢
  rw [ne_eq, Bool.eq_iff_iff, hn, hv]
  split <;> split <;> omega

end

/-- A conditional branch after a comparison, `cond` being what it asks of the flags and `rel` the relation. -/
theorem branch_of_compare {t : State} {i : Instr} {cond : Bool} {rel : Prop} {d : BitVec 8} (hext : t.ext = .none)
    (hexec : exec i t = .next (t.branchIf cond false d)) (h : cond = true ↔ rel) :
    ∃ u, exec i t = .next u ∧ (rel → u.pc = t.pc + BitVec.ofInt 32 ((2 * (d.toNat : Int)).bmod 512)) ∧
      (¬rel → u.pc = t.pc + 2#32) := by
  refine ⟨_, hexec, fun hr => ?_, fun hr => ?_⟩
  · obtain rfl := h.mpr hr
    refine (t.target_eq d).trans ?_
    rw [hext]
    rfl
  · obtain rfl : cond = false := Bool.eq_false_iff.mpr fun hcond => hr (h.mp hcond)
    rfl

/-- Settles O47: the flags of `cmp` by `subtractionFlags`, each condition by the relation it stands for. -/
theorem branchAfterCompare : Obligations.BranchAfterCompare := by
  intro s t rd rs d hext hexec a b
  obtain ⟨diff, hflags, htext⟩ : ∃ diff, SubtractionFlags a b 0 diff t.psr ∧ t.ext = .none := by
    obtain rfl := Host.Outcome.next.inj ((exec_cmpReg s rd rs).symm.trans hexec)
    rw [State.leftOperand, if_pos hext, State.rightOperand, if_pos hext]
    exact ⟨_, subtractionFlags a b false s.psr, rfl⟩
  have hz := compare_z hflags
  have hc := hflags.c
  have hnv := compare_nv hflags
  have hint : a = b ↔ a.toInt = b.toInt := BitVec.toInt_inj.symm
  have hnat : a = b ↔ a.toNat = b.toNat := BitVec.toNat_inj.symm
  have hge : t.psr.getLsbD 0 = t.psr.getLsbD 2 ↔ b.toInt ≤ a.toInt := by rw [← not_lt, ← hnv, ne_eq, not_not]
  have hne : t.psr.getLsbD 1 = false ↔ a ≠ b := by rw [← Bool.not_eq_true, hz]
  have huge : t.psr.getLsbD 3 = false ↔ b.toNat ≤ a.toNat := by rw [← Bool.not_eq_true, hc, Nat.add_zero, not_lt]
  repeat rw [List.forall_mem_cons]
  refine ⟨?_, ?_, ?_, ?_, ?_, ?_, ?_, ?_, ?_, ?_, List.forall_mem_nil _⟩
  · exact branch_of_compare htext rfl ((condGt_iff t).trans (by rw [hne, hge, ne_eq, hint]; omega))
  · exact branch_of_compare htext rfl ((condGe_iff t).trans hge)
  · exact branch_of_compare htext rfl ((condLt_iff t).trans hnv)
  · exact branch_of_compare htext rfl ((condLe_iff t).trans (by rw [hz, hnv, hint]; omega))
  · exact branch_of_compare htext rfl ((condUgt_iff t).trans (by rw [hne, huge, ne_eq, hnat]; omega))
  · exact branch_of_compare htext rfl ((condUge_iff t).trans huge)
  · exact branch_of_compare (cond := t.condUlt) htext rfl hc
  · exact branch_of_compare htext rfl ((condUle_iff t).trans (by rw [hz, hc, hnat]; omega))
  · exact branch_of_compare (cond := t.condEq) htext rfl hz
  · exact branch_of_compare htext rfl ((condNe_iff t).trans hne)

/-! ### Calls and returns -/

section
variable (s : State) (delayed : Bool) (x : Word)

theorem branchTo_pc : (s.branchTo delayed x).pc = if delayed then s.pc + 2#32 else x := by cases delayed <;> rfl

theorem branchTo_delay : (s.branchTo delayed x).delay = if delayed then some x else s.delay := by cases delayed <;> rfl

theorem branchTo_ext : (s.branchTo delayed x).ext = .none := by cases delayed <;> rfl

/-- A branch changes PC, DELAY and the pending `ext` alone. -/
theorem branchTo_eq : s.branchTo delayed x =
    { s with pc := (s.branchTo delayed x).pc, delay := (s.branchTo delayed x).delay, ext := .none } := by
  cases delayed <;> rfl

theorem branchTo_mapped : MappedFrame s (s.branchTo delayed x) := by
  rw [branchTo_eq]
  exact ⟨rfl, rfl, rfl, rfl, rfl, rfl, rfl, rfl, rfl, rfl⟩

theorem branchTo_memory : SameMemory s (s.branchTo delayed x) := by
  rw [branchTo_eq]
  exact fun _ _ => rfl

theorem branchTo_core {regs : List Reg} {bits : List Nat} {specials : List SpecialReg} :
    CoreFrame regs bits specials s (s.branchTo delayed x) := by
  rw [branchTo_eq]
  exact { CoreFrame.refl s with }

end

/-- A call does what the spec says, `x` being its target. -/
theorem call_result {i : Instr} {s : State} {delayed : Bool} {x target : Word} (hinv : s.Inv) (hx : x = target)
    (hexec : exec i s = .next (s.callTo delayed x)) :
    ∃ t, exec i s = .next t ∧ t.sp = s.sp - 4#32 ∧
      (s.plainBlock (s.sp - 4#32) 4 →
        (∀ access, t.numberAt access t.sp 4 = (s.pc + if delayed then 4#32 else 2#32).toNat) ∧ MappedFrame s t) ∧
      (t.pc = if delayed then s.pc + 2#32 else target) ∧ (t.delay = if delayed then some target else s.delay) ∧
      t.ext = .none ∧ SameMemoryExcept (s.addresses (s.sp - 4#32) 4) s t ∧ CoreFrame [] [] [.sp] s t := by
  subst hx
  have hpush := s.push_spec .instruction (s.pc + if delayed then 4#32 else 2#32)
  have hcore := coreFrame_push s .instruction (s.pc + if delayed then 4#32 else 2#32)
  have hsp := State.push_sp s .instruction (s.pc + if delayed then 4#32 else 2#32)
  have hpc := State.push_pc s .instruction (s.pc + if delayed then 4#32 else 2#32)
  have hdelay := State.push_delay s .instruction (s.pc + if delayed then 4#32 else 2#32)
  rw [State.callTo] at hexec
  generalize s.push .instruction (s.pc + if delayed then 4#32 else 2#32) = u at hpush hcore hsp hpc hdelay hexec
  have hmemory := branchTo_memory u delayed x
  have hcfg : (u.branchTo delayed x).cfg = u.cfg := (branchTo_core (regs := []) (bits := []) (specials := []) u delayed x).cfg
  have htop : (u.branchTo delayed x).sp = s.sp - 4#32 := by rw [branchTo_eq]; exact hsp
  refine ⟨_, hexec, htop, fun hplain => ⟨fun access => ?_, (hpush.mapped hplain).trans (branchTo_mapped u delayed x)⟩, ?_,
    ?_, branchTo_ext u delayed x, fun access a ha => (hmemory access a).trans (hpush.others hinv.mappedBits access a ha),
    hcore.trans (branchTo_core u delayed x)⟩
  · rw [htop, hmemory.numberAt hcfg, hpush.back hplain, word_mod]
  · rw [branchTo_pc, hpc]
  · rw [branchTo_delay, hdelay]

/-- Settles O48, each form by `call_result`. -/
theorem callResults : Obligations.CallResults := by
  intro s d rb hinv relative absolute
  repeat rw [List.forall_mem_cons]
  refine ⟨?_, ?_, ?_, ?_, List.forall_mem_nil _⟩
  · exact call_result hinv (s.target_eq d) rfl
  · exact call_result hinv (s.target_eq d) rfl
  · exact call_result hinv (maskPc_eq_ofNat _) rfl
  · exact call_result hinv (maskPc_eq_ofNat _) rfl

/-- A return reads one word and branches. -/
theorem readFrame_returnBy (s : State) (delayed : Bool) : ReadFrame [] [] [.sp] s (s.returnBy delayed) := by
  have hpop := (ReadFrame.refl (regs := []) (bits := []) (specials := [.sp]) s).pop
  rw [State.returnBy]
  exact ⟨hpop.core.trans (branchTo_core _ delayed _), hpop.mapped.trans (branchTo_mapped _ delayed _),
    fun access a => (branchTo_memory _ delayed _ access a).trans (hpop.memory access a), by
      rw [branchTo_eq]; exact hpop.storesNow⟩

theorem returnBy_sp (s : State) (delayed : Bool) : (s.returnBy delayed).sp = s.sp + 4#32 := by
  rw [State.returnBy, branchTo_eq]
  exact State.pop_sp s

/-- The word on top of the stack with bit 0 cleared. -/
theorem maskPc_top (s : State) (access : Nat) :
    maskPc (s.top access) = BitVec.ofNat 32 (s.numberAt access s.sp 4 / 2 * 2) := by
  rw [maskPc_eq_ofNat, State.top_toNat]

/-- Settles O49. -/
theorem returnResults : Obligations.ReturnResults := by
  intro s target
  refine ⟨⟨_, rfl, returnBy_sp s false, maskPc_top s 1, State.pop_delay s, rfl, readFrame_returnBy s false⟩,
    _, rfl, returnBy_sp s true, ?_, congrArg some (maskPc_top s 1), rfl, readFrame_returnBy s true⟩
  exact congrArg (· + 2#32) (State.pop_pc s)

/-- Settles O50, by `State.trapEntry_taken`. -/
theorem softwareExceptionTaken : Obligations.SoftwareExceptionTaken := fun s _ hready =>
  ⟨_, rfl, State.trapEntry_taken hready .instruction (s.pc + 2#32) none, State.trapEntry_nmiPending .., State.trapEntry_zdiv ..⟩

/-- Every bit of the PSR may change. -/
theorem ReadFrame.withPsr {regs : List Reg} {specials : List SpecialReg} {s t : State}
    (h : ReadFrame regs (List.range 32) specials s t) (p : Word) :
    ReadFrame regs (List.range 32) specials s { t with psr := p } := by
  obtain ⟨hcore, hmapped, hmemory, hstores⟩ := h
  refine ⟨{ hcore with flags := fun k hk => ?_ }, { hmapped with }, hmemory, hstores⟩
  have hk : 32 ≤ k := by simpa using hk
  rw [BitVec.getLsbD_of_ge _ _ hk, BitVec.getLsbD_of_ge _ _ hk]

/-- `s` between the two pops of `reti`. -/
def State.trapReturning (s : State) : State := { s.pop with psr := s.top 1 &&& psrMask }

theorem readFrame_trapReturning (s : State) : ReadFrame [] (List.range 32) [.sp] s s.trapReturning :=
  (ReadFrame.refl s).pop.withPsr _

theorem State.trapReturn_eq (s : State) : s.trapReturn =
    { s.trapReturning.pop with pc := maskPc (s.trapReturning.top 2), ext := .none } := rfl

/-- Settles O51: two pops, the second after PSR is written. -/
theorem trapReturnResults : Obligations.TrapReturnResults := by
  intro s
  have hfirst := readFrame_trapReturning s
  have hsp : s.trapReturning.sp = s.sp + 4#32 := State.pop_sp s
  have hpsr : s.trapReturning.psr = BitVec.ofNat 32 (s.numberAt 1 s.sp 4) &&& 0x00000FDF#32 := by
    rw [← State.top_toNat, BitVec.ofNat_toNat, BitVec.setWidth_eq]
    rfl
  have hdelay : s.trapReturning.delay = s.delay := State.pop_delay s
  refine ⟨_, rfl, ?_⟩
  rw [State.trapReturn_eq]
  generalize s.trapReturning = u at hfirst hsp hpsr hdelay
  obtain ⟨hcore, hmapped, hmemory, hstores⟩ := hfirst.pop
  refine ⟨(State.pop_psr u).trans hpsr, ?_, (State.pop_sp u).trans ?_, rfl, (State.pop_delay u).trans hdelay,
    { hcore with }, { hmapped with }, hmemory, hstores⟩
  · change (maskPc (u.top 2)).toNat = _
    rw [maskPc_toNat, State.top_toNat, hsp, hfirst.memory.numberAt hfirst.core.cfg]
  · rw [hsp]
    exact BitVec.add_assoc s.sp 4#32 4#32

/-- A word that has only the bits of a mask is unchanged under the mask. -/
theorem and_eq_self_of_and_not {x mask : Word} (h : x &&& ~~~mask = 0#32) : x &&& mask = x := by
  have hself : x &&& (mask ||| ~~~mask) = x := by rw [BitVec.or_not_self, BitVec.and_allOnes]
  rw [BitVec.and_or_distrib_left, h, BitVec.or_zero] at hself
  exact hself

/-- Settles O52: `trapReturnResults` reads the frame that the trap saved. -/
theorem returnUndoesTrap : Obligations.ReturnUndoesTrap := by
  intro s t u offset ret level hinv heven htaken hexec
  obtain ⟨u', hu', hpsr, hpc, hsp, -, -, hframe⟩ := trapReturnResults t
  obtain rfl := Host.Outcome.next.inj (hu'.symm.trans hexec)
  refine ⟨BitVec.eq_of_toNat_eq ?_, ?_, ?_, fun r => (hframe.core.regs r List.not_mem_nil).trans (htaken.regs r)⟩
  · rw [hpc, htaken.savedPc]
    omega
  · rw [hpsr, htaken.savedPsr, BitVec.ofNat_toNat, BitVec.setWidth_eq]
    exact and_eq_self_of_and_not hinv.psrBits
  · rw [hsp, htaken.sp]
    exact BitVec.sub_add_cancel s.sp 8#32

/-! ### The debugging exception -/

theorem exec_brk_of_user {s : State} (hu : s.userMode = true) :
    exec .brk s = .next (s.debugEntry (s.pc + 2#32) 0x80#8 0#8) := congrArg Host.Outcome.next (if_pos hu)

theorem exec_brk_of_debug {s : State} (hu : s.userMode = false) : exec .brk s = .next s.advance :=
  congrArg Host.Outcome.next (if_neg (by rw [hu]; exact Bool.false_ne_true))

/-- The two reads of `retd` leave a trace in the data break alone. -/
theorem debugReturn_reads (s : State) :
    ∃ d, (s.noteRead .word (Config.debugBase s.cfg + 12#32)).noteRead .word (Config.debugBase s.cfg + 8#32) =
      { s with dbrk := d } := by
  rw [s.noteRead_debugBase (j := 12) (by decide)]
  generalize (s.noteRead .word (Config.debugBase s.cfg + BitVec.ofNat 32 12)).dbrk = d
  exact ⟨_, State.noteRead_debugBase { s with dbrk := d } (j := 8) (by decide)⟩

/-- What `retd` changes, `d` being what its two reads leave in the data break. -/
theorem debugReturn_eq (s : State) : ∃ d, s.debugReturn = { s with
    regs := s.regs.set 0 (s.read32 1 (Config.debugBase s.cfg + 12#32))
    pc := maskPc (s.read32 2 (Config.debugBase s.cfg + 8#32))
    dcr := s.dcr &&& 0xFE#8, retdShadow := true, ext := .none, dbrk := d } := by
  obtain ⟨d, hd⟩ := debugReturn_reads s
  exact ⟨d, by unfold State.debugReturn; dsimp only; rw [hd]⟩

/-- In debugging mode the two reads of `retd` record nothing. -/
theorem debugReturn_dbrk {s : State} (hu : s.userMode = false) : s.debugReturn.dbrk = s.dbrk :=
  have hquiet (enable : Nat) (x : Word) : ¬s.breakAccess enable x := fun h => by
    rw [State.breakAccess, hu] at h
    exact Bool.false_ne_true h.1
  s.debugReturn_recorded.quiet (fun x _ => hquiet 5 x) fun x _ => hquiet 6 x

/-- Settles O53, by `State.debugEntry_taken` and `debugReturn_eq`. -/
theorem debugInstructions : Obligations.DebugInstructions := by
  intro s
  refine ⟨fun hu hready => ⟨_, exec_brk_of_user hu, State.debugEntry_taken hready _ _ _, State.debugEntry_dbrk ..⟩,
    exec_brk_of_debug, s.debugReturn, rfl, ?_⟩
  have hquiet := debugReturn_dbrk (s := s)
  obtain ⟨d, hd⟩ := debugReturn_eq s
  rw [hd] at hquiet ⊢
  refine ⟨?r0, fun r hr => State.reg_setReg_ne s _ hr, ?pc, rfl, hquiet⟩
  case r0 => exact (congrArg BitVec.toNat (State.reg_setReg_self s 0 _)).trans (State.read32_toNat ..)
  case pc => exact (maskPc_toNat _).trans (by rw [State.read32_toNat])

end Sys2Proof.Machine

/-! SUPPORT. A pending `ext` and the instructions that cannot be extended (30_encoding.md R127): each shared operation under another pending `ext`, then the obligation. -/

namespace Sys2Proof.Machine

/-! ### The shared operations -/

section
variable (s : State) (e : Ext)

theorem loadPost_withExt (rd rb : Reg) (size : Size) (signed : Bool) :
    (s.withExt e).loadPost rd rb size signed = s.loadPost rd rb size signed := by
  change (if misaligned size (s.reg rb) then _ else _) = if misaligned size (s.reg rb) then _ else _
  split
  · exact s.addressError_withExt e
  · change State.advance (((s.withExt e).noteRead size (s.reg rb)).setReg rd _ |>.setReg rb _) = _
    rw [State.noteRead_withExt]
    rfl

theorem storePost_withExt (rb rs : Reg) (size : Size) :
    (s.withExt e).storePost rb rs size = s.storePost rb rs size := by
  change (if misaligned size (s.reg rb) then _ else _) = if misaligned size (s.reg rb) then _ else _
  split
  · exact s.addressError_withExt e
  · change State.advance (((s.withExt e).store size (s.reg rb) (s.reg rs)).setReg rb _) = _
    rw [State.store_withExt]
    rfl

theorem advance_withExt : (s.withExt e).advance = s.advance := rfl

theorem branchTo_withExt (delayed : Bool) (x : Word) : (s.withExt e).branchTo delayed x = s.branchTo delayed x := by
  cases delayed <;> rfl

theorem callTo_withExt (delayed : Bool) (x : Word) : (s.withExt e).callTo delayed x = s.callTo delayed x := by
  rw [State.callTo, State.push_withExt, branchTo_withExt]
  rfl

theorem returnBy_withExt (delayed : Bool) : (s.withExt e).returnBy delayed = s.returnBy delayed := by
  rw [State.returnBy, State.pop_withExt, branchTo_withExt]
  rfl

theorem trapReturn_withExt : (s.withExt e).trapReturn = s.trapReturn := by
  have hfirst : (s.withExt e).trapReturning = s.trapReturning.withExt e := by
    rw [State.trapReturning, State.pop_withExt]
    rfl
  rw [State.trapReturn_eq, State.trapReturn_eq, hfirst, State.pop_withExt]
  rfl

theorem debugSaved_withExt (ret : Word) : (s.withExt e).debugSaved ret = (s.debugSaved ret).withExt e := by
  have hstart : (if s.debugCtl = .misset then { s.withExt e with debugCtl := .tripped } else s.withExt e) =
      State.withExt (if s.debugCtl = .misset then { s with debugCtl := .tripped } else s) e := by split <;> rfl
  change State.writeBytes (State.writeBytes (if s.debugCtl = .misset then _ else _) _ ret 4) _ (s.reg 0) 4 = _
  rw [hstart, State.writeBytes_withExt, State.writeBytes_withExt]
  rfl

/-- The end of the debugging exception, once its two words are saved. -/
def State.debugMarked (t : State) (base : Word) (causes causes2 : Byte) : State :=
  let u := { t with dsr := t.dsr ||| causes, dsr2 := t.dsr2 ||| causes2, dcr := t.dcr ||| 0x01#8 }
  { u with pc := maskPc (u.read32 1 base), ext := .none }

theorem debugEntry_eq_marked (ret : Word) (causes causes2 : Byte) :
    s.debugEntry ret causes causes2 = (s.debugSaved ret).debugMarked (Config.debugBase s.cfg) causes causes2 := rfl

theorem debugMarked_withExt (base : Word) (causes causes2 : Byte) :
    (s.withExt e).debugMarked base causes causes2 = s.debugMarked base causes causes2 := rfl

theorem debugEntry_withExt (ret : Word) (causes causes2 : Byte) :
    (s.withExt e).debugEntry ret causes causes2 = s.debugEntry ret causes causes2 := by
  rw [debugEntry_eq_marked, debugSaved_withExt, debugMarked_withExt, debugEntry_eq_marked]
  rfl

theorem debugReturn_withExt : (s.withExt e).debugReturn = s.debugReturn := by
  unfold State.debugReturn
  dsimp only
  rw [State.noteRead_withExt, State.noteRead_withExt]
  rfl

end

theorem pushRegs_withExt (e : Ext) (k : Nat) : ∀ s : State, (s.withExt e).pushRegs k = (s.pushRegs k).withExt e := by
  induction k with
  | zero => exact fun _ => rfl
  | succ k ih => exact fun s => (congrArg (State.pushRegs · k) (State.push_withExt s e .instruction _)).trans (ih _)

theorem popRegs_withExt (s : State) (e : Ext) (k : Nat) : (s.withExt e).popRegs k = (s.popRegs k).withExt e := by
  induction k with
  | zero => rfl
  | succ k ih =>
    rw [State.popRegs, ih, State.popRegs, State.pop_withExt]
    rfl

/-! ### The instructions -/

/-- The instruction does the same with and without a pending `ext`. -/
def IgnoresExt (i : Instr) (s : State) : Prop :=
  ∃ t, exec i s = .next t ∧ exec i (s.withExt .none) = .next (t.withExt .none)

theorem withExt_eq_self {t : State} (h : t.ext = .none) : t.withExt .none = t := by
  rw [State.withExt, ← h]

/-- Every instruction but `ext` and `mac` uses up the pending `ext`, so that the same result is enough. -/
theorem ignoresExt_of_same {i : Instr} {s t : State} (hext : ∀ imm13, i ≠ .ext imm13) (hmac : ∀ rs, i ≠ .mac rs)
    (h : exec i s = .next t) (h' : exec i (s.withExt .none) = .next t) : IgnoresExt i s := by
  have hnone : t.ext = .none := by
    by_contra hne
    obtain ⟨imm13, hi⟩ | ⟨rs, hi, -⟩ := (hiddenStateWriters i s t h).1 hne
    · exact hext imm13 hi
    · exact hmac rs hi
  exact ⟨t, h, h'.trans (congrArg _ (withExt_eq_self hnone).symm)⟩

/-- `mac` ends or takes the address error without reading `ext`; a repeat leaves it as it is. -/
theorem ignoresExt_mac (rs : Reg) (s : State) : IgnoresExt (.mac rs) s := by
  by_cases hends : (!s.cfg.hasMultiplier || s.reg rs == 0#32) = true
  · exact ⟨_, if_pos hends, if_pos hends⟩
  by_cases hodd : (misaligned .half (s.reg (nextReg rs 1)) || misaligned .half (s.reg (nextReg rs 2))) = true
  · refine ⟨s.addressError, (if_neg hends).trans (if_pos hodd), (if_neg hends).trans ((if_pos hodd).trans ?_)⟩
    rw [State.addressError_withExt, withExt_eq_self (t := s.addressError) (State.trapEntry_ext ..)]
  · refine ⟨s.macRepeat rs, (if_neg hends).trans (if_neg hodd), (if_neg hends).trans ((if_neg hodd).trans ?_)⟩
    rw [State.macRepeat_withExt]

theorem ignoresExt_brk (s : State) : IgnoresExt .brk s := by
  cases hu : s.userMode with
  | true =>
    refine ignoresExt_of_same nofun nofun (exec_brk_of_user hu) ((exec_brk_of_user (s := s.withExt .none) hu).trans ?_)
    exact congrArg Host.Outcome.next (debugEntry_withExt ..)
  | false => exact ⟨_, exec_brk_of_debug hu, exec_brk_of_debug (s := s.withExt .none) hu⟩

theorem ignoresExt_ldWToSpecial (sd : SpecialReg) (rs : Reg) (s : State) : IgnoresExt (.ldWToSpecial sd rs) s := by
  cases sd
  case psr | sp => exact ⟨_, rfl, rfl⟩
  case alr | ahr => exact ignoresExt_of_same nofun nofun rfl rfl

theorem ignoresExt_ldWFromSpecial (rd : Reg) (ss : SpecialReg) (s : State) : IgnoresExt (.ldWFromSpecial rd ss) s := by
  cases ss
  case psr | sp => exact ⟨_, rfl, rfl⟩
  case alr | ahr => exact ignoresExt_of_same nofun nofun rfl rfl

/-- A division start reads ALR, PSR and a register, and never the pending `ext`. -/
theorem ignoresExt_div0s (rs : Reg) (s : State) : IgnoresExt (.div0s rs) s := by
  by_cases hm : s.cfg.hasMultiplier = true
  · exact ⟨_, exec_div0s hm rs, exec_div0s (s := s.withExt .none) hm rs⟩
  · exact ⟨_, if_neg hm, if_neg hm⟩

theorem ignoresExt_div0u (rs : Reg) (s : State) : IgnoresExt (.div0u rs) s := by
  by_cases hm : s.cfg.hasMultiplier = true
  · exact ⟨_, exec_div0u hm rs, exec_div0u (s := s.withExt .none) hm rs⟩
  · exact ⟨_, if_neg hm, if_neg hm⟩

/-- So do the other instructions of the option, which are no-operations without it. -/
theorem ignoresExt_ite {i : Instr} {s : State} {c : Prop} [Decidable c] {t u : State}
    (h : exec i s = if c then .next t.advance else .next u.advance)
    (h' : exec i (s.withExt .none) = if c then .next t.advance else .next u.advance) : IgnoresExt i s := by
  split at h
  · next hc => exact ⟨_, h, h'.trans (if_pos hc)⟩
  · next hc => exact ⟨_, h, h'.trans (if_neg hc)⟩

theorem exec_ignoresExt {i : Instr} (h : i.usesPrefix = false) (s : State) : IgnoresExt i s := by
  cases i
  case mac rs => exact ignoresExt_mac rs s
  case ldWToSpecial sd rs => exact ignoresExt_ldWToSpecial sd rs s
  case ldWFromSpecial rd ss => exact ignoresExt_ldWFromSpecial rd ss s
  case ldBReg | ldUbReg | ldHReg | ldUhReg | ldWReg | notReg | addSp | subSp | adc | sbc | swap | mirror | scan0 | scan1
      | nop | slp | halt => exact ⟨_, rfl, rfl⟩
  case srlImm | srlReg | sllImm | sllReg | sraImm | sraReg | slaImm | slaReg | rrImm | rrReg | rlImm | rlReg =>
    exact ⟨_, rfl, rfl⟩
  case mltH | mltuH | mltW | mltuW => exact ignoresExt_of_same nofun nofun rfl rfl
  case div0s rs => exact ignoresExt_div0s rs s
  case div0u rs => exact ignoresExt_div0u rs s
  case div1 | div2s | div3s => exact ignoresExt_ite rfl rfl
  case ldBPost | ldUbPost | ldHPost | ldUhPost | ldWPost =>
    exact ignoresExt_of_same nofun nofun rfl (congrArg Host.Outcome.next (loadPost_withExt ..))
  case stBPost | stHPost | stWPost =>
    exact ignoresExt_of_same nofun nofun rfl (congrArg Host.Outcome.next (storePost_withExt ..))
  case pushn rs =>
    refine ignoresExt_of_same nofun nofun rfl (congrArg Host.Outcome.next ?_)
    exact (congrArg State.advance (pushRegs_withExt .none (rs.val + 1) s)).trans (advance_withExt ..)
  case popn rd =>
    refine ignoresExt_of_same nofun nofun rfl (congrArg Host.Outcome.next ?_)
    exact (congrArg State.advance (popRegs_withExt s .none (rd.val + 1))).trans (advance_withExt ..)
  case callReg | callRegDelayed => exact ignoresExt_of_same nofun nofun rfl (congrArg Host.Outcome.next (callTo_withExt ..))
  case jpReg | jpRegDelayed => exact ignoresExt_of_same nofun nofun rfl (congrArg Host.Outcome.next (branchTo_withExt ..))
  case ret | retDelayed => exact ignoresExt_of_same nofun nofun rfl (congrArg Host.Outcome.next (returnBy_withExt ..))
  case reti => exact ignoresExt_of_same nofun nofun rfl (congrArg Host.Outcome.next (trapReturn_withExt ..))
  case retd => exact ignoresExt_of_same nofun nofun rfl (congrArg Host.Outcome.next (debugReturn_withExt ..))
  case int => exact ignoresExt_of_same nofun nofun rfl (congrArg Host.Outcome.next (State.trapEntry_withExt ..))
  case brk => exact ignoresExt_brk s
  all_goals exact absurd h Bool.noConfusion

/-- Settles O59: the same by `exec_ignoresExt`, what is left pending by the writers of the hidden state and, for `mac`, by
the ways it ends. -/
theorem unextendableIgnorePrefix : Obligations.UnextendableIgnorePrefix := by
  intro i s h
  obtain ⟨t, ht, hnone⟩ := exec_ignoresExt h s
  refine ⟨t, ht, hnone, or_iff_not_imp_left.mpr fun hpending => ?_⟩
  obtain ⟨imm13, rfl⟩ | ⟨rs, rfl, hcount, hsame⟩ := (hiddenStateWriters i s t ht).1 hpending
  · exact absurd h Bool.noConfusion
  · refine ⟨rs, rfl, Bool.of_not_eq_false fun hm => hpending ?_, hcount, hsame⟩
    have hnop : exec (.mac rs) s = .next s.advance := if_pos (by rw [hm]; rfl)
    rw [← Host.Outcome.next.inj (hnop.symm.trans ht)]
    rfl

end Sys2Proof.Machine

/-! SUPPORT. Where the step stops by name (92_eei_decisions.md D7, D8, D12, D22; 93_implementation_defined.md U6): what a write of 0x0078010 leaves in the debug control, when an access trips it, then the obligation. -/

namespace Sys2Proof.Machine

/-! ### Which accesses trip the stop of U6 -/

/-- After a wrong write of 0x0078010 an access trips exactly if it meets a debug register. -/
theorem State.touch_tripped_iff {s : State} (h : s.debugCtl = .misset) (size : Size) (x : Word) :
    (s.touch size x).debugCtl = .tripped ↔ ∃ k < size.bytes, debugRegisterAt (s.byteAddress x k) := by
  have hany : (s.accessAddresses size x).any (fun a =>
      decide (debugRegistersFirst ≤ a) && decide (a ≤ debugRegistersLast)) = true ↔
      ∃ k < size.bytes, debugRegisterAt (s.byteAddress x k) := by
    simp only [State.accessAddresses, List.any_map, List.any_eq_true, List.mem_range, Function.comp_apply,
      Bool.and_eq_true, decide_eq_true_eq]
    exact Iff.rfl
  unfold State.touch
  split
  · next hcond => exact iff_of_true rfl (hany.mp hcond.2)
  · next hcond =>
    rw [h]
    exact iff_of_false nofun fun hex => hcond ⟨h, hany.mpr hex⟩

theorem State.writeMapped_debugCtl (s : State) (r : MappedByte) (b : Byte) : (s.writeMapped r b).debugCtl =
    if r = .dcr2 ∧ b.extractLsb' 1 5 ≠ 0b00111#5 ∧ s.debugCtl = .ok then .misset else s.debugCtl := by
  cases r <;> simp [State.writeMapped, State.writeTbrp, State.writeTtbrByte, State.writeDcr, State.writeDcr2]

/-- The stop of U6 stays tripped. -/
theorem State.writeByte_tripped {s : State} (h : s.debugCtl = .tripped) (a : Nat) (b : Byte) :
    (s.writeByte a b).debugCtl = .tripped := by
  obtain hw | ⟨r, -, -, hw⟩ | hw := s.writeByte_cases a b <;> rw [hw]
  · exact h
  · rw [State.writeMapped_debugCtl, h]
    exact if_neg fun hc => nomatch hc.2.2
  · exact h

theorem State.writeBytes_tripped {s : State} (h : s.debugCtl = .tripped) (x v : Word) (n : Nat) :
    (s.writeBytes x v n).debugCtl = .tripped := by
  induction n with
  | zero => exact h
  | succ n ih => exact State.writeByte_tripped ih _ _

theorem State.debugSaved_tripped {s : State} (h : s.debugCtl = .misset) (ret : Word) :
    (s.debugSaved ret).debugCtl = .tripped := by
  rw [State.debugSaved, if_pos h]
  exact State.writeBytes_tripped (State.writeBytes_tripped rfl ..) ..

/-- A debugging exception after a wrong write of 0x0078010 trips the stop of U6. -/
theorem State.debugEntry_tripped {s : State} (h : s.debugCtl = .misset) (ret : Word) (causes causes2 : Byte) :
    (s.debugEntry ret causes causes2).debugCtl = .tripped := State.debugSaved_tripped h ret

/-! ### What a store writes to 0x0078010 -/

theorem mappedByte?_dcr2_iff (a : Nat) : mappedByte? a = some .dcr2 ↔ a = 0x78010 :=
  ⟨fun h => (mappedByte?_address h).symm, fun h => h ▸ rfl⟩

/-- Bits 5:1 of the byte `k` of a word are not 00111. -/
def WrongControl (v : Word) (k : Nat) : Prop := (v.extractLsb' (8 * k + 1) 5 : BitVec 5) ≠ 0b00111#5

theorem wrongControl_iff (v : Word) (k : Nat) : WrongControl v k ↔ (byteOf v k).extractLsb' 1 5 ≠ 0b00111#5 := by
  have h : (byteOf v k).extractLsb' 1 5 = v.extractLsb' (8 * k + 1) 5 := by
    apply BitVec.eq_of_getLsbD_eq
    intro i hi
    rw [byteOf, BitVec.getLsbD_extractLsb', BitVec.getLsbD_extractLsb', BitVec.getLsbD_extractLsb',
      decide_eq_true (show 1 + i < 8 by omega), Bool.true_and, Nat.add_assoc]
  rw [WrongControl, h]

/-- One byte written in debugging mode. -/
theorem State.writeByte_misset_iff {s : State} (hu : s.userMode = false) (ht : s.debugCtl ≠ .tripped) (a : Nat) (b : Byte) :
    (s.writeByte a b).debugCtl ≠ .tripped ∧
      ((s.writeByte a b).debugCtl = .misset ↔
        s.debugCtl = .misset ∨ a = 0x78010 ∧ b.extractLsb' 1 5 ≠ 0b00111#5) := by
  cases hr : mappedByte? a with
  | none =>
    have ha : a ≠ 0x78010 := fun h => nomatch hr.symm.trans ((mappedByte?_dcr2_iff a).mpr h)
    rw [State.writeByte_unmapped hr]
    exact ⟨ht, by simp [ha]⟩
  | some r =>
    have ha : r = .dcr2 ↔ a = 0x78010 := by rw [← mappedByte?_dcr2_iff, hr, Option.some_inj]
    rw [State.writeByte_mapped hu hr, State.writeMapped_debugCtl]
    simp only [ha]
    cases hctl : s.debugCtl <;> simp_all
    split <;> simp_all

/-- A block written in debugging mode. -/
theorem State.writeBytes_misset_iff {s : State} (hu : s.userMode = false) (hok : s.debugCtl = .ok) (x v : Word) (n : Nat) :
    (s.writeBytes x v n).debugCtl ≠ .tripped ∧
      ((s.writeBytes x v n).debugCtl = .misset ↔ ∃ k < n, s.byteAddress x k = 0x78010 ∧ WrongControl v k) := by
  induction n with
  | zero => exact ⟨by rw [State.writeBytes, hok]; nofun, by simp [State.writeBytes, hok]⟩
  | succ n ih =>
    have hmode := (s.writeBytes_spec x v n).mode.trans hu
    obtain ⟨hne, hiff⟩ := State.writeByte_misset_iff hmode ih.1 (s.byteAddress x n) (byteOf v n)
    refine ⟨hne, hiff.trans ?_⟩
    rw [ih.2, ← wrongControl_iff]
    simp only [Nat.lt_succ_iff_lt_or_eq, or_and_right, exists_or, exists_eq_left]

theorem State.touch_of_ok {s : State} (h : s.debugCtl = .ok) (size : Size) (x : Word) : s.touch size x = s :=
  if_neg fun hc => by rw [h] at hc; exact nomatch hc.1

/-- A store in debugging mode. -/
theorem State.store_misset_iff {s : State} (hu : s.userMode = false) (hok : s.debugCtl = .ok) (size : Size) (x v : Word) :
    (s.store size x v).debugCtl ≠ .tripped ∧
      ((s.store size x v).debugCtl = .misset ↔ ∃ k < size.bytes, s.byteAddress x k = 0x78010 ∧ WrongControl v k) := by
  have hnote : (s.noteWrite size x).debugCtl = .ok := by rw [State.noteWrite_debugCtl, State.touch_of_ok hok, hok]
  have h := State.writeBytes_misset_iff ((s.noteWrite_mapped size x).userMode.trans hu) hnote x v size.bytes
  simp only [State.byteAddress_congr (State.noteWrite_cfg s size x)] at h
  exact h

/-! ### The stops -/

section
variable {s u : State} (hs : OrdinaryInput s) (hb : s.atBoundary.boundary s.nextInput.irq = .passed u)
  (hr : u.run = .running)
include hs hb hr

/-- A step whose fetch answers no instruction. -/
theorem step_fetch_error {answer : Result} (h : u.fetch = .error answer) : step s = answer := by
  rw [step_passed hs hb hr, h]

/-- An instruction that trips the stop of U6 is no step. -/
theorem step_instruction_tripped {v : State} {i : Instr} (hf : u.fetch = .ok i) (he : exec i u = .next v)
    (hv : v.debugCtl = .tripped) : step s = .fault .debugControlMisset :=
  (step_executes hs hb hr hf he).trans (settle_of_tripped hv)

end

section
variable {u : State}

theorem fetch_stored (h : u.codeJustStored = true) : u.fetch = .error (.fault .fetchOfStoredCode) := if_pos h

theorem fetch_tripped (h : u.codeJustStored = false) (ht : (u.touch .half u.pc).debugCtl = .tripped) :
    u.fetch = .error (.fault .debugControlMisset) := by
  rw [State.fetch, h, if_neg Bool.false_ne_true, if_pos ht]

theorem fetch_undecodable (h : u.codeJustStored = false) (ht : (u.touch .half u.pc).debugCtl ≠ .tripped) {e : DecodeError}
    (hd : decode u.fetchCode = .error e) : u.fetch = .error (.refused (decodeRefusal e)) := by
  rw [State.fetch, h, if_neg Bool.false_ne_true, if_neg ht, hd]

theorem fetch_no_delay_slot (h : u.codeJustStored = false) (ht : (u.touch .half u.pc).debugCtl ≠ .tripped) {i : Instr}
    (hd : decode u.fetchCode = .ok i) (hdelay : u.delay.isSome) (hform : i.isDelaySlotForm = false) :
    u.fetch = .error (.fault .undefinedDelayedInstruction) := by
  rw [State.fetch, h, if_neg Bool.false_ne_true, if_neg ht, hd]
  simp [hdelay, hform]

/-- The loads and stores that meet a debug register after a wrong write of 0x0078010. -/
theorem exec_form_tripped {size : Size} {rd rb : Reg} {imm6 : BitVec 6} {p : Instr × Word} (h : u.debugCtl = .misset)
    (hp : p ∈ u.loadForms size rd rb imm6 ++ u.storeForms size rb rd imm6) (haligned : p.2.toNat % size.bytes = 0)
    (hmeets : ∃ k < size.bytes, debugRegisterAt (u.byteAddress p.2 k)) :
    ∃ v, exec p.1 u = .next v ∧ v.debugCtl = .tripped := by
  have htouch := (State.touch_tripped_iff h size p.2).mpr hmeets
  obtain hp | hp := List.mem_append.mp hp
  · obtain ⟨regs, hexec⟩ := exec_loadForm_of_aligned hp haligned
    exact ⟨_, hexec, (u.noteRead_debugCtl size p.2).trans htouch⟩
  · obtain ⟨regs, hexec⟩ := exec_storeForm_of_aligned hp haligned
    exact ⟨_, hexec, State.writeBytes_tripped ((u.noteWrite_debugCtl size p.2).trans htouch) ..⟩

end

/-- A debugging exception of a boundary after a wrong write of 0x0078010. -/
theorem State.takeDebug_tripped {s : State} (h : s.debugCtl = .misset) : s.takeDebug.debugCtl = .tripped := by
  rw [State.takeDebug_eq]
  exact State.debugEntry_tripped h s.pc s.debugCauses s.debugCauses2

/-- Settles O19: the answers of the fetch, then the accesses and the debugging exceptions that trip the stop of U6. -/
theorem unspecifiedSituationsStop : Obligations.UnspecifiedSituationsStop := by
  refine ⟨fun s u hs hb hr => ?fetched, fun s hs hm hz hr hu hdue hctl => ?debugging, fun s size rb rs imm6 hu hok p hp h => ?stored,
    fun s q hq hbig => ?impossible⟩
  case fetched =>
    refine ⟨fun h => step_fetch_error hs hb hr (fetch_stored h), fun h ht => ⟨fun i hd hdelay hform => ?_, fun e hd => ?_⟩,
      fun h hctl hmeets => ?_, fun h hctl hdelay hmeets => ?_⟩
    · exact step_fetch_error hs hb hr (fetch_no_delay_slot h ht hd hdelay hform)
    · exact step_fetch_error hs hb hr (fetch_undecodable h ht hd)
    · exact step_fetch_error hs hb hr (fetch_tripped h ((State.touch_tripped_iff hctl .half u.pc).mpr hmeets))
    have hfetch {i : Instr} (hd : decode u.fetchCode = .ok i) : u.fetch = .ok i := by
      refine State.fetch_eq_ok.mpr ⟨h, fun ht => ?_, hd, fun hsome => ?_⟩
      · obtain ⟨k, hk, hat⟩ := (State.touch_tripped_iff hctl .half u.pc).mp ht
        exact hmeets k hk hat
      · rw [hdelay] at hsome
        cases hsome
    refine ⟨fun hd hu => ?_, fun size rd rb imm6 p hp hd haligned hat => ?_⟩
    · exact step_instruction_tripped hs hb hr (hfetch hd) (exec_brk_of_user hu) (State.debugEntry_tripped hctl ..)
    · obtain ⟨v, hexec, hv⟩ := exec_form_tripped hctl hp haligned hat
      exact step_instruction_tripped hs hb hr (hfetch hd) hexec hv
  case debugging =>
    refine (step_taken hs (State.boundary_debug hm hz hr hu hdue s.nextInput.irq)).trans (settle_of_tripped ?_)
    refine State.takeDebug_tripped ?_
    rw [State.drawDataBreak_eq]
    exact hctl
  case stored =>
    obtain ⟨regs, hexec⟩ := exec_storeForm_of_aligned hp h
    exact ⟨_, hexec, State.store_misset_iff hu hok size p.2 (s.reg rs)⟩
  case impossible =>
    refine if_pos ?_
    rw [hq]
    exact decide_eq_true hbig

end Sys2Proof.Machine
